-- ==== Sys2Proof/Word.lean ====
section
/-! DEFINITION. The word types of the block: all values are unsigned and have the widths of the spec (00_scope.md R9). -/

namespace Sys2Proof

/-- `u8` of 00_scope.md R9 and BYTE_WIDTH of R7. -/
abbrev Byte := BitVec 8

/-- `u16` of 00_scope.md R9: PAN IDs, short addresses, frame control, FCS. -/
abbrev Half := BitVec 16

/-- `u64` of 00_scope.md R9: an address register (10_state.md R39, R40). -/
abbrev Addr := BitVec 64

end Sys2Proof
end

