-- ==== Sys2Proof/Syntax.lean ====
section
/-! DEFINITION. The names of the spec: the five commands (30_encoding.md R81), the frame-control record and its
enumerations (10_state.md R24, R25), the result codes (30_encoding.md R87), what the host can do to the block
(10_state.md R22, R46; 70_reset_and_hazards.md R270) and the host's program notation (30_encoding.md R94). -/

namespace Sys2Proof

/-- The commands of 30_encoding.md R81, one constructor per row of the opcode table. A command has no operand fields
(R80). The reserved codes of R82 are no commands of the table: the decoder rejects them and the step runs the UNKNOWN
rule (44_facades.md R221). -/
inductive Instr where
  | nop
  | unpack
  | pack
  | resolve
  | crc16
deriving DecidableEq, Repr

/-- FrameType, in the order of its numbers 0 to 7 (10_state.md R25). -/
inductive FrameType where
  | beacon
  | data
  | ack
  | command
  | reserved
  | multipurpose
  | fragment
  | extended
deriving DecidableEq, Repr

/-- AddrMode, in the order of its numbers 0 to 3 (10_state.md R25). -/
inductive AddrMode where
  | none
  | reserved
  | short
  | extended
deriving DecidableEq, Repr

/-- FrameVersion 0b00, 0b01, 0b10 and the unsupported 0b11 (10_state.md R25). -/
inductive FrameVersion where
  | v00
  | v01
  | v10
  | v11
deriving DecidableEq, Repr

/-- The FrameControl record (10_state.md R24): ten fields, none for frame-control bit 7. -/
structure FrameControl where
  frameType : FrameType
  securityEnabled : Bool
  framePending : Bool
  ackRequest : Bool
  panIdCompression : Bool
  seqNumSuppressed : Bool
  iePresent : Bool
  dstAddrMode : AddrMode
  frameVersion : FrameVersion
  srcAddrMode : AddrMode
deriving DecidableEq, Repr

/-- The result codes of 30_encoding.md R87, in the order of the table. -/
inductive ResultCode where
  | success
  | parameterError
  | frameSizeError
  | unsupportedFeature
  | invalidAddressingMode
  | invalidFrameVersion
  | unsupportedFrameType
  | fcsMismatch
  | unknownCommand
  | noResult
deriving DecidableEq, Repr

/-- What the outside world can do to the block between two commands: a byte access of the host (10_state.md R46) or
the platform's reset (70_reset_and_hazards.md R270). `writeReadData` is the second half of a `copy` of
30_encoding.md R94: a byte write of the byte that the last read answered (its `t`). -/
inductive HostEvent where
  | write (offset : Nat) (value : Byte)
  | read (offset : Nat)
  | writeReadData (offset : Nat)
  | reset
deriving DecidableEq, Repr

/-- One line of a host program, in the notation of 30_encoding.md R94. -/
inductive HostForm where
  | wr (offset : Nat) (value : Byte)
  | rd (offset : Nat)
  | cmd (command : Instr)
  | wr16 (offset : Nat) (value : Half)
  | wr64 (offset : Nat) (value : Addr)
  | rd16 (offset : Nat)
  | rd64 (offset : Nat)
  | wrbuf (offset : Nat) (bytes : List Byte)
  | copy (src dst count : Nat)
deriving DecidableEq, Repr

end Sys2Proof
end

