-- ==== Sys2Proof/Config.lean ====
section
/-! DEFINITION. The parameters of the block, which are configuration and not state (10_state.md R23, 00_scope.md R7).
Their default values are in Machine/Params.lean. -/

namespace Sys2Proof

/-- The size of the host window in bytes (00_scope.md R7). -/
abbrev windowSize : Nat := 0x200

/-- The capacity in bytes of each of IN_BUF, OUT_BUF and FD_PAYLOAD (10_state.md R42, R43, R44). -/
abbrev bufferSize : Nat := 128

/-- One row of PANID_V2_TABLE (41_resolver.md R134): the triple it matches and the presence pair it gives. -/
structure PanIdRow where
  dam : AddrMode
  sam : AddrMode
  panc : Bool
  dpanPresent : Bool
  spanPresent : Bool
deriving DecidableEq, Repr

/-- A reflected CRC-16 (43_fcs.md R180): bytes consumed least significant bit first, polynomial in reflected form. -/
structure CrcAlgorithm where
  polynomial : Half
  initial : Half
  finalXor : Half
deriving DecidableEq, Repr

/-- The parameters of 10_state.md R23 that a rule depends on, and MIN_FRAME_LEN of 00_scope.md R7. -/
structure Config where
  minFrameLen : Nat
  maxFrameLen : Nat
  maxPackLen : Nat
  panIdV2Table : List PanIdRow
  crc : CrcAlgorithm
deriving DecidableEq, Repr

/-- WINDOW_BASE is OPEN (20_memory.md R63, 92_eei_decisions.md D26): a free value, on which no rule depends. -/
opaque Config.windowBase : Nat

/-- LATENCY is OPEN (70_reset_and_hazards.md R276): a free value, on which no rule depends. The machine takes every command
as one transition, as R276 allows (log entry 5). -/
opaque Config.latency : Nat

/-- The width of an address field of the reserved mode, which 30_encoding.md R85 says is "never evaluated": a free
value, so that nothing can rest on it. -/
opaque Config.reservedAddrLen : Nat

end Sys2Proof
end

