-- ==== Sys2Proof/WellFormed.lean ====
section
/-! DEFINITION. Which terms of the syntax the spec gives a meaning. -/

namespace Sys2Proof

/-- Every command is well formed: its word has no operand fields (30_encoding.md R80). -/
def Instr.wf : Instr → Bool
  | .nop => true
  | .unpack => true
  | .pack => true
  | .resolve => true
  | .crc16 => true

/-- The window offsets `off` to `off + n - 1` are inside the 0x200-byte window (20_memory.md R63). -/
def insideWindow (off n : Nat) : Bool := decide (off + n ≤ windowSize)

/-- A host access is to the block when its offset is inside the window (20_memory.md R63). -/
def HostEvent.wf : HostEvent → Bool
  | .write off _ => insideWindow off 1
  | .read off => insideWindow off 1
  | .writeReadData off => insideWindow off 1
  | .reset => true

/-- A line of a host program touches offsets of the window only (30_encoding.md R94). -/
def HostForm.wf : HostForm → Bool
  | .wr off _ => insideWindow off 1
  | .rd off => insideWindow off 1
  | .cmd i => i.wf
  | .wr16 off _ => insideWindow off 2
  | .wr64 off _ => insideWindow off 8
  | .rd16 off => insideWindow off 2
  | .rd64 off => insideWindow off 8
  | .wrbuf off bytes => insideWindow off bytes.length
  | .copy src dst n => insideWindow src n && insideWindow dst n

/-- A configured table row matches a triple that reaches the resolver: neither mode is reserved (41_resolver.md R134:
"non-reserved modes and flag"). -/
def PanIdRow.wf (r : PanIdRow) : Bool := decide (r.dam ≠ .reserved ∧ r.sam ≠ .reserved)

/-- Parameters that fit the block: the frame control fits the shortest frame (00_scope.md R7, 40_frame_control.md R113),
a frame fits the buffers (10_state.md R42, R43), a packed frame is a frame, and the table's rows are ones the resolver
can meet. -/
def Config.wf (c : Config) : Bool :=
  decide (2 ≤ c.minFrameLen ∧ c.minFrameLen ≤ c.maxFrameLen ∧ c.maxFrameLen ≤ bufferSize ∧
    c.maxPackLen ≤ c.maxFrameLen) && c.panIdV2Table.all PanIdRow.wf

end Sys2Proof
end

