-- ==== Sys2Proof/Decode.lean ====
section
/-! DEFINITION. The encodings: byte order (20_memory.md R60), the command word (30_encoding.md R80 to R82), the result
codes (R87), the frame-control word (R83, 40_frame_control.md R110, R111) and the host's program notation (R94).
Decoders first, the encoders after them. -/

namespace Sys2Proof

/-! ### Byte order -/

/-- Bits `8i+7:8i` of `v` (00_scope.md R10). -/
def byteAt {w : Nat} (v : BitVec w) (i : Nat) : Byte := v.extractLsb' (8 * i) 8

/-- `v` with bits `8i+7:8i` replaced: a byte write to a multi-byte register changes only that byte
(10_state.md R46). -/
def setByteAt {w : Nat} (v : BitVec w) (i : Nat) (b : Byte) : BitVec w :=
  (v &&& ~~~((0xFF#8).setWidth w <<< (8 * i))) ||| (b.setWidth w <<< (8 * i))

/-- `bytesLE_n(v)`: the `n` bytes of `v`, least significant first (00_scope.md R10). -/
def bytesLE {w : Nat} (n : Nat) (v : BitVec w) : List Byte := (List.range n).map (byteAt v)

/-- `LE16` and `LE64` of 00_scope.md R10 in one: the sum of byte `i` shifted up by `8i` bits. -/
def leValue (w : Nat) : List Byte → BitVec w
  | [] => 0
  | b :: bs => b.setWidth w ||| (leValue w bs <<< 8)

/-! ### The command word -/

/-- Why the decoder rejects bytes, by name. -/
inductive DecodeError where
  /-- There is no byte to decode. -/
  | noByte
  /-- A reserved command code, 0x05 to 0xFF (30_encoding.md R82). -/
  | reservedCommand (code : Byte)
deriving DecidableEq, Repr

/-- The command map of 30_encoding.md R81: five exact matches, every other byte reserved (R82). -/
def decodeCommand (code : Byte) : Except DecodeError Instr :=
  if code = 0x00 then .ok .nop
  else if code = 0x01 then .ok .unpack
  else if code = 0x02 then .ok .pack
  else if code = 0x03 then .ok .resolve
  else if code = 0x04 then .ok .crc16
  else .error (.reservedCommand code)

/-- A command is one byte (30_encoding.md R80): the command and the rest of the bytes. -/
def decode : List Byte → Except DecodeError (Instr × List Byte)
  | [] => .error .noByte
  | b :: rest => (decodeCommand b).map (·, rest)

/-- The bytes of a command whose bits are numbered as the opcode table numbers them: one byte, all of it the code
(30_encoding.md R80). -/
def tableByte (nbits w : Nat) : Byte := BitVec.ofNat 8 (w % 2 ^ nbits)

/-- The command this decoder reads from a table word. -/
def decodeTableWord (nbits w : Nat) : Option Instr :=
  match decode [tableByte nbits w] with
  | .ok (i, _) => some i
  | .error _ => none

/-- The code of a command (30_encoding.md R81). -/
def commandCode : Instr → Byte
  | .nop => 0x00
  | .unpack => 0x01
  | .pack => 0x02
  | .resolve => 0x03
  | .crc16 => 0x04

/-- The words of a command: one byte (30_encoding.md R80). -/
def encode (i : Instr) : List Byte := [commandCode i]

/-! ### Result codes -/

/-- The number of a result code (30_encoding.md R87). -/
def ResultCode.code : ResultCode → Byte
  | .success => 0x00
  | .parameterError => 0x01
  | .frameSizeError => 0x02
  | .unsupportedFeature => 0x03
  | .invalidAddressingMode => 0x04
  | .invalidFrameVersion => 0x05
  | .unsupportedFrameType => 0x06
  | .fcsMismatch => 0x07
  | .unknownCommand => 0x08
  | .noResult => 0xFF

/-! ### The frame-control word -/

/-- The frame type a 3-bit field names (10_state.md R25). -/
def FrameType.ofBits (b : BitVec 3) : FrameType :=
  match b.toNat with
  | 0 => .beacon
  | 1 => .data
  | 2 => .ack
  | 3 => .command
  | 4 => .reserved
  | 5 => .multipurpose
  | 6 => .fragment
  | _ => .extended

/-- The addressing mode a 2-bit field names (10_state.md R25). -/
def AddrMode.ofBits (b : BitVec 2) : AddrMode :=
  match b.toNat with
  | 0 => .none
  | 1 => .reserved
  | 2 => .short
  | _ => .extended

/-- The frame version a 2-bit field names (10_state.md R25). -/
def FrameVersion.ofBits (b : BitVec 2) : FrameVersion :=
  match b.toNat with
  | 0 => .v00
  | 1 => .v01
  | 2 => .v10
  | _ => .v11

/-- FcDecode (40_frame_control.md R110): no validation, and bit 7 is read by nothing. -/
def fcDecode (w : Half) : FrameControl where
  frameType := .ofBits (w.extractLsb' 0 3)
  securityEnabled := w.getLsbD 3
  framePending := w.getLsbD 4
  ackRequest := w.getLsbD 5
  panIdCompression := w.getLsbD 6
  seqNumSuppressed := w.getLsbD 8
  iePresent := w.getLsbD 9
  dstAddrMode := .ofBits (w.extractLsb' 10 2)
  frameVersion := .ofBits (w.extractLsb' 12 2)
  srcAddrMode := .ofBits (w.extractLsb' 14 2)

/-- The number of a frame type (10_state.md R25). -/
def FrameType.bits : FrameType → BitVec 3
  | .beacon => 0
  | .data => 1
  | .ack => 2
  | .command => 3
  | .reserved => 4
  | .multipurpose => 5
  | .fragment => 6
  | .extended => 7

/-- The number of an addressing mode (10_state.md R25). -/
def AddrMode.bits : AddrMode → BitVec 2
  | .none => 0
  | .reserved => 1
  | .short => 2
  | .extended => 3

/-- The number of a frame version (10_state.md R25). -/
def FrameVersion.bits : FrameVersion → BitVec 2
  | .v00 => 0
  | .v01 => 1
  | .v10 => 2
  | .v11 => 3

/-- One flag at its bit of a frame-control word. -/
def flagAt (b : Bool) (i : Nat) : Half := (BitVec.ofBool b).setWidth 16 <<< i

/-- FcEncode (40_frame_control.md R111): bit 7 is 0. -/
def fcEncode (fc : FrameControl) : Half :=
  fc.frameType.bits.setWidth 16
  ||| flagAt fc.securityEnabled 3
  ||| flagAt fc.framePending 4
  ||| flagAt fc.ackRequest 5
  ||| flagAt fc.panIdCompression 6
  ||| flagAt fc.seqNumSuppressed 8
  ||| flagAt fc.iePresent 9
  ||| fc.dstAddrMode.bits.setWidth 16 <<< 10
  ||| fc.frameVersion.bits.setWidth 16 <<< 12
  ||| fc.srcAddrMode.bits.setWidth 16 <<< 14

/-! ### The host's program notation -/

/-- The offset of CMD (30_encoding.md R94). -/
def cmdOffset : Nat := 0x000

/-- Byte writes of `bytes` at consecutive offsets (`wrbuf` of 30_encoding.md R94). -/
def writesAt (off : Nat) : List Byte → List HostEvent
  | [] => []
  | b :: bs => .write off b :: writesAt (off + 1) bs

/-- Byte reads at `n` consecutive offsets (`rd16`, `rd64` of 30_encoding.md R94). -/
def readsAt (off n : Nat) : List HostEvent := (List.range n).map fun i => .read (off + i)

/-- The byte accesses a line of a host program stands for (30_encoding.md R94). -/
def HostForm.expand : HostForm → List HostEvent
  | .wr off v => [.write off v]
  | .rd off => [.read off]
  | .cmd i => [.write cmdOffset (commandCode i)]
  | .wr16 off v => writesAt off (bytesLE 2 v)
  | .wr64 off v => writesAt off (bytesLE 8 v)
  | .rd16 off => readsAt off 2
  | .rd64 off => readsAt off 8
  | .wrbuf off bytes => writesAt off bytes
  | .copy src dst n => (List.range n).flatMap fun i => [.read (src + i), .writeReadData (dst + i)]

/-- The accesses of a host program, in its order (30_encoding.md R94). -/
def expandProgram (p : List HostForm) : List HostEvent := p.flatMap HostForm.expand

end Sys2Proof
end

