-- ==== Sys2Proof/Machine/State.lean ====
section
/-! DEFINITION. The state of the block: the record of 10_state.md R50, the host's queue of events beside it, what can
stop a step, and the state after reset (70_reset_and_hazards.md R270). -/

namespace Sys2Proof.Machine

/-- The one way a step can stop. No command of the block faults (20_memory.md R68). -/
inductive Fault where
  /-- Raised by a host access at an offset of 0x200 or more, which is outside the block and the platform's business
  (10_state.md R45, 20_memory.md R63). Safe: the model stops where the platform may go on. -/
  | outsideWindow (offset : Nat)
deriving DecidableEq, Repr

/-- Why an instruction has no meaning. -/
inductive Refusal where
  /-- Raised by an arm of `exec` for an instruction that is not modelled. Safe: the model stops. -/
  | notModelled (mnemonic : String)
deriving DecidableEq, Repr

/-- One frame space of 20_memory.md R63 (IN_BUF, OUT_BUF or FD_PAYLOAD): the bytes that are not 0x00, by rising address.
An unlisted byte reads as 0x00, the reset value of every buffer byte (70_reset_and_hazards.md R270). -/
abbrev Memory := List Host.Cell

/-- What a byte that is not listed reads as: the reset contents of 70_reset_and_hazards.md R270. -/
abbrev Memory.unlisted : Byte := 0x00

/-- The canonical form: addresses of the frame space, strictly rising, and no entry equal to what an unlisted address
reads as. -/
abbrev Memory.wf (m : Memory) : Prop :=
  m.Pairwise (fun c d => c.1 < d.1) ∧ ∀ c ∈ m, c.1 < bufferSize ∧ c.2 ≠ Memory.unlisted

/-- The frame descriptor, one UnpackedFrame (10_state.md R26, R50). -/
structure FrameDesc where
  fc : FrameControl
  seq : Byte
  dpan : Half
  daddr : Addr
  span : Half
  saddr : Addr
  plen : Byte
  payload : Memory
  fcs : Half
deriving DecidableEq, Repr

/-- ZeroFD, the zero-initialised UnpackedFrame (44_facades.md R201): a version-0b00 beacon with both addressing modes
none, SNS = 0 and an empty payload (70_reset_and_hazards.md R270). -/
def FrameDesc.zero : FrameDesc where
  fc := {
    frameType := .beacon
    securityEnabled := false
    framePending := false
    ackRequest := false
    panIdCompression := false
    seqNumSuppressed := false
    iePresent := false
    dstAddrMode := .none
    frameVersion := .v00
    srcAddrMode := .none }
  seq := 0
  dpan := 0
  daddr := 0
  span := 0
  saddr := 0
  plen := 0
  payload := []
  fcs := 0

/-- `CodecState` of 10_state.md R50, and two fields of the model's own for the host's side of the window. -/
structure State where
  /-- CMD (10_state.md R27). -/
  cmd : Byte
  /-- RESULT (10_state.md R28). -/
  result : Byte
  /-- STATUS bits 3:0 (10_state.md R29). -/
  status : BitVec 4
  /-- CTRL bits 2:0 (10_state.md R30). -/
  ctrl : BitVec 3
  /-- IN_LEN (10_state.md R31). -/
  inLen : Byte
  /-- OUT_LEN (10_state.md R32). -/
  outLen : Byte
  /-- CRC_OUT (10_state.md R41). -/
  crcOut : Half
  /-- The FD register file (10_state.md R26). -/
  fd : FrameDesc
  /-- IN_BUF (10_state.md R42). -/
  inBuf : Memory
  /-- OUT_BUF (10_state.md R43). -/
  outBuf : Memory
  /-- The model's own: the host events that have not taken effect yet, in the host's program order (20_memory.md R69). -/
  host : List HostEvent
  /-- The model's own: the byte that the block answered to the last host read. -/
  readData : Byte
deriving DecidableEq, Repr

/-- The state after reset (70_reset_and_hazards.md R270): RESULT is NO_RESULT, every other register is 0. The host queue
is empty and the read data is 0x00: DESIGN CHOICE, log entries 1 and 3. -/
def State.reset : State where
  cmd := 0x00
  result := 0xFF
  status := 0
  ctrl := 0
  inLen := 0x00
  outLen := 0x00
  crcOut := 0x0000
  fd := FrameDesc.zero
  inBuf := []
  outBuf := []
  host := []
  readData := 0x00

end Sys2Proof.Machine
end

