-- ==== Sys2Proof/Machine/Ops.lean ====
section
/-! DEFINITION. The named operations of the machine: reading and writing a frame space (MemRead and MemWrite of
00_scope.md R10), writing a register, and raising a result code, the block's one way to take an error
(60_exceptions.md R241). -/

namespace Sys2Proof.Machine

/-! ### Frame spaces -/

/-- One byte of a frame space. -/
def Memory.read : Memory → Nat → Byte
  | [], _ => Memory.unlisted
  | (k, b) :: m, a => if a = k then b else Memory.read m a

/-- A frame space with one byte written, in canonical form again. -/
def Memory.write : Memory → Nat → Byte → Memory
  | [], a, v => if v = Memory.unlisted then [] else [(a, v)]
  | (k, b) :: m, a, v =>
    if a < k then (if v = Memory.unlisted then (k, b) :: m else (a, v) :: (k, b) :: m)
    else if a = k then (if v = Memory.unlisted then m else (a, v) :: m)
    else (k, b) :: Memory.write m a v

/-- `MemRead(BUF, a, n)` of 00_scope.md R10: the `n` bytes from `a` on. -/
def Memory.readBytes (m : Memory) (a n : Nat) : List Byte := (List.range n).map fun i => m.read (a + i)

/-- `MemWrite(BUF, a, n, s)` of 00_scope.md R10, `n` the length of `s`. -/
def Memory.writeBytes : Memory → Nat → List Byte → Memory
  | m, _, [] => m
  | m, a, b :: bs => Memory.writeBytes (m.write a b) (a + 1) bs

/-! ### Registers -/

/-- CMD written (10_state.md R27). -/
def State.setCmd (s : State) (c : Byte) : State := { s with cmd := c }

/-- RESULT written (10_state.md R28). -/
def State.setResult (s : State) (c : ResultCode) : State := { s with result := c.code }

/-- All of STATUS written (10_state.md R29). -/
def State.setStatus (s : State) (v : BitVec 4) : State := { s with status := v }

/-- Every FD register written (10_state.md R26). -/
def State.setFd (s : State) (fd : FrameDesc) : State := { s with fd := fd }

/-- OUT_LEN and all of OUT_BUF written (10_state.md R32, R43). -/
def State.setOut (s : State) (len : Byte) (buf : Memory) : State := { s with outLen := len, outBuf := buf }

/-- CRC_OUT written (10_state.md R41). -/
def State.setCrcOut (s : State) (v : Half) : State := { s with crcOut := v }

/-- The byte answered to a host read (the model's own field). -/
def State.setReadData (s : State) (v : Byte) : State := { s with readData := v }

/-- The host events still to come (the model's own field). -/
def State.setHost (s : State) (es : List HostEvent) : State := { s with host := es }

/-! ### Errors -/

/-- `raise e` in a command (60_exceptions.md R241): RESULT takes the code, and what the command would have written is
cleared, except that PARAMETER_ERROR of UNPACK and PACK changes RESULT only. NOP raises nothing
(44_facades.md R220). -/
def raise (i : Instr) (e : ResultCode) (s : State) : State :=
  match i with
  | .nop => s
  | .unpack => if e = .parameterError then s.setResult e else ((s.setFd .zero).setStatus 0).setResult e
  | .pack => if e = .parameterError then s.setResult e else ((s.setOut 0 []).setStatus 0).setResult e
  | .resolve => (s.setStatus 0).setResult e
  | .crc16 => (s.setCrcOut 0).setResult e

/-- How a command ends (00_scope.md R10): `raise` with the code of the first step that failed, or the effects of
success. -/
def conclude {α : Type} (i : Instr) (commit : α → State → State) (r : Except ResultCode α) (s : State) : State :=
  match r with
  | .error e => raise i e s
  | .ok a => commit a s

/-- One step of a command that may raise a code (00_scope.md R10). -/
def raiseIf (c : Prop) [Decidable c] (e : ResultCode) : Except ResultCode Unit :=
  if c then .error e else .ok ()

/-- The effect of a reserved command code (44_facades.md R221): RESULT is UNKNOWN_COMMAND and nothing else changes. -/
def unknownCommand (s : State) : State := s.setResult .unknownCommand

/-- The platform's reset (70_reset_and_hazards.md R270, R271): every register of the window takes its reset value. The
host's own queue and the byte it read last are not the block's (log entry 11). -/
def resetEvent (s : State) : State := (State.reset.setHost s.host).setReadData s.readData

end Sys2Proof.Machine
end

