-- ==== Sys2Proof/Machine/Params.lean ====
section
/-! DEFINITION. The default values of the parameters (00_scope.md R7, 41_resolver.md R134, 43_fcs.md R180): the block that
`exec` and `step` run. -/

namespace Sys2Proof.Machine

/-- The default PANID_V2_TABLE: the 18 rows of 41_resolver.md R134, in its order. -/
def standardTable : List PanIdRow := [
  ⟨.none, .none, false, false, false⟩,
  ⟨.none, .none, true, true, false⟩,
  ⟨.short, .none, false, true, false⟩,
  ⟨.extended, .none, false, true, false⟩,
  ⟨.short, .none, true, false, false⟩,
  ⟨.extended, .none, true, false, false⟩,
  ⟨.none, .short, false, false, true⟩,
  ⟨.none, .extended, false, false, true⟩,
  ⟨.none, .short, true, false, false⟩,
  ⟨.none, .extended, true, false, false⟩,
  ⟨.extended, .extended, false, true, false⟩,
  ⟨.extended, .extended, true, false, false⟩,
  ⟨.short, .short, false, true, true⟩,
  ⟨.short, .extended, false, true, true⟩,
  ⟨.extended, .short, false, true, true⟩,
  ⟨.short, .extended, true, true, false⟩,
  ⟨.extended, .short, true, true, false⟩,
  ⟨.short, .short, true, true, false⟩]

/-- The CRC the fixture pins (43_fcs.md R180): reflected polynomial 0x8408, initial value 0x0000, no final XOR. -/
def standardCrc : CrcAlgorithm where
  polynomial := 0x8408
  initial := 0x0000
  finalXor := 0x0000

/-- The parameters this block takes (00_scope.md R7). -/
def standard : Config where
  minFrameLen := 2
  maxFrameLen := 128
  maxPackLen := 127
  panIdV2Table := standardTable
  crc := standardCrc

end Sys2Proof.Machine
end

