-- ==== Sys2Proof/Machine/Fcs.lean ====
section
/-! DEFINITION. The FCS engine (43_fcs.md) and the command CRC16. -/

namespace Sys2Proof.Machine

/-- One bit of Crc16 (43_fcs.md R181). -/
def crcBit (poly c : Half) : Half := if c.getLsbD 0 then (c >>> 1) ^^^ poly else c >>> 1

/-- `k` bits of Crc16 (43_fcs.md R181). -/
def crcBits (poly : Half) : Nat → Half → Half
  | 0, c => c
  | k + 1, c => crcBits poly k (crcBit poly c)

/-- One byte of Crc16 (43_fcs.md R181). -/
def crcByte (poly c : Half) (b : Byte) : Half := crcBits poly 8 (c ^^^ b.setWidth 16)

/-- Crc16, bitwise form (43_fcs.md R180, R181). -/
def crc16 (alg : CrcAlgorithm) (bytes : List Byte) : Half :=
  bytes.foldl (crcByte alg.polynomial) alg.initial ^^^ alg.finalXor

/-- The effects of a successful CRC16 (43_fcs.md R185). -/
def commitCrc16 (v : Half) (s : State) : State := (s.setCrcOut v).setResult .success

/-- The steps of CRC16 (43_fcs.md R185): the CRC of all IN_LEN bytes. -/
def crc16Steps (cfg : Config) (s : State) : Except ResultCode Half := do
  raiseIf (s.inLen.toNat > cfg.maxFrameLen) .frameSizeError
  return crc16 cfg.crc (s.inBuf.readBytes 0 s.inLen.toNat)

/-- CRC16 under any configuration (43_fcs.md R185). -/
def crc16With (cfg : Config) (s : State) : State := conclude .crc16 commitCrc16 (crc16Steps cfg s) s

/-- CRC16, command code 0x04 (43_fcs.md R185). -/
def execCrc16 (s : State) : Host.Outcome State Fault Refusal := .next (crc16With standard s)

end Sys2Proof.Machine
end

