-- ==== Sys2Proof/Machine/Nop.lean ====
section
/-! DEFINITION. The command NOP (44_facades.md R220). -/

namespace Sys2Proof.Machine

/-- NOP, command code 0x00: no register changes, RESULT and STATUS included (44_facades.md R220). -/
def execNop (s : State) : Host.Outcome State Fault Refusal := .next s

end Sys2Proof.Machine
end

