-- ==== Sys2Proof/Machine/Flags.lean ====
section
/-! DEFINITION. STATUS and CTRL, the block's only flags (10_state.md R29, R30, R48). -/

namespace Sys2Proof.Machine

/-- The resolver's output: which PAN IDs are on the wire (41_resolver.md R130). -/
structure Presence where
  dpan : Bool
  span : Bool
deriving DecidableEq, Repr

/-- STATUS as a command writes it (10_state.md R29): `(sinf << 3) | (dinf << 2) | (spp << 1) | dpp`. -/
def statusOf (p : Presence) (dinf sinf : Bool) : BitVec 4 :=
  (BitVec.ofBool sinf).setWidth 4 <<< 3 ||| (BitVec.ofBool dinf).setWidth 4 <<< 2
    ||| (BitVec.ofBool p.span).setWidth 4 <<< 1 ||| (BitVec.ofBool p.dpan).setWidth 4

/-- STATUS.DPAN_PRESENT (10_state.md R29). -/
def State.dpanPresent (s : State) : Bool := s.status.getLsbD 0

/-- STATUS.SPAN_PRESENT (10_state.md R29). -/
def State.spanPresent (s : State) : Bool := s.status.getLsbD 1

/-- STATUS.DPAN_INFERRED (10_state.md R29). -/
def State.dpanInferred (s : State) : Bool := s.status.getLsbD 2

/-- STATUS.SPAN_INFERRED (10_state.md R29). -/
def State.spanInferred (s : State) : Bool := s.status.getLsbD 3

/-- CTRL.IN_VALID (10_state.md R30). -/
def State.inValid (s : State) : Bool := s.ctrl.getLsbD 0

/-- CTRL.FD_VALID (10_state.md R30). -/
def State.fdValid (s : State) : Bool := s.ctrl.getLsbD 1

/-- CTRL.OUT_VALID (10_state.md R30). -/
def State.outValid (s : State) : Bool := s.ctrl.getLsbD 2

end Sys2Proof.Machine
end

