-- ==== Sys2Proof/Machine/Resolver.lean ====
section
/-! DEFINITION. The addressing-mode and PAN-ID-compression resolver (41_resolver.md) and the command RESOLVE. -/

namespace Sys2Proof.Machine

/-- ResolveV01 (41_resolver.md R131), for frame versions 0b00 and 0b01. -/
def resolveV01 (dam sam : AddrMode) (panc : Bool) : Presence :=
  let dpp : Bool := decide (dam ≠ .none)
  let spp : Bool := decide (sam ≠ .none)
  if dpp && spp && panc then ⟨dpp, false⟩ else ⟨dpp, spp⟩

/-- A row of the table matches a triple (41_resolver.md R132). -/
def rowMatches (dam sam : AddrMode) (panc : Bool) (r : PanIdRow) : Bool :=
  decide (r.dam = dam ∧ r.sam = sam ∧ r.panc = panc)

/-- ResolveV2 (41_resolver.md R132): the first row that matches; INVALID_ADDRESSING_MODE when none does (R135). -/
def resolveV2 (table : List PanIdRow) (dam sam : AddrMode) (panc : Bool) : Except ResultCode Presence :=
  match table.find? (rowMatches dam sam panc) with
  | some r => .ok ⟨r.dpanPresent, r.spanPresent⟩
  | none => .error .invalidAddressingMode

/-- Resolve (41_resolver.md R130), total by its two guards. -/
def resolve (table : List PanIdRow) (fver : FrameVersion) (dam sam : AddrMode) (panc : Bool) :
    Except ResultCode Presence := do
  raiseIf (fver = .v11) .invalidFrameVersion
  raiseIf (dam = .reserved ∨ sam = .reserved) .invalidAddressingMode
  match fver with
  | .v00 => .ok (resolveV01 dam sam panc)
  | .v01 => .ok (resolveV01 dam sam panc)
  | .v10 => resolveV2 table dam sam panc
  | .v11 => .error .invalidFrameVersion

/-- Resolve on the fields of a frame-control record (41_resolver.md R130: "all from one FrameControl record"). -/
def resolveFc (cfg : Config) (fc : FrameControl) : Except ResultCode Presence :=
  resolve cfg.panIdV2Table fc.frameVersion fc.dstAddrMode fc.srcAddrMode fc.panIdCompression

/-- The effects of a successful RESOLVE (41_resolver.md R136). -/
def commitResolve (p : Presence) (s : State) : State := (s.setStatus (statusOf p false false)).setResult .success

/-- RESOLVE under any configuration (41_resolver.md R136). -/
def resolveWith (cfg : Config) (s : State) : State := conclude .resolve commitResolve (resolveFc cfg s.fd.fc) s

/-- RESOLVE, command code 0x03 (41_resolver.md R136). -/
def execResolve (s : State) : Host.Outcome State Fault Refusal := .next (resolveWith standard s)

end Sys2Proof.Machine
end

