-- ==== Sys2Proof/Machine/Operands.lean ====
section
/-! DEFINITION. The operand forms: the checks on a frame control (44_facades.md R201 steps 4 to 7), reading fields with a
cursor (42_serializer.md section 1), the PAN-ID post-step (section 3) and writing fields with a cursor (section 2).
`n` and `pos` are those of 00_scope.md R11: `pos` counts from the first byte of the frame. -/

namespace Sys2Proof.Machine

/-! ### The frame control -/

/-- The frame control of a received frame, `FcDecode(LE16(IN_BUF[0], IN_BUF[1]))` (44_facades.md R201 step 3,
40_frame_control.md R113). -/
def wireFc (buf : Memory) : FrameControl := fcDecode (leValue 16 [buf.read 0, buf.read 1])

/-- Version 0b00 or 0b01 (30_encoding.md R86). -/
def isV01 (v : FrameVersion) : Bool := decide (v = .v00 ∨ v = .v01)

/-- A data or command frame (42_serializer.md R160). -/
def isDataOrCommand (t : FrameType) : Bool := decide (t = .data ∨ t = .command)

/-- Steps 4 to 7 of UNPACK and P4 to P7 of PACK (44_facades.md R201, R211), in that order; frame types 4 to 7 are the
rejected ones (30_encoding.md R84). -/
def checkFrameControl (fc : FrameControl) : Except ResultCode Unit := do
  raiseIf (fc.frameVersion = .v11) .invalidFrameVersion
  raiseIf (fc.frameType = .reserved ∨ fc.frameType = .multipurpose ∨ fc.frameType = .fragment
    ∨ fc.frameType = .extended) .unsupportedFrameType
  raiseIf (fc.dstAddrMode = .reserved ∨ fc.srcAddrMode = .reserved) .invalidAddressingMode
  raiseIf (fc.securityEnabled = true ∨ fc.iePresent = true) .unsupportedFeature

/-- The both-none case of a version-0b00/0b01 data or command frame (42_serializer.md R161). -/
def bothNone (fc : FrameControl) : Bool :=
  isV01 fc.frameVersion && isDataOrCommand fc.frameType && decide (fc.dstAddrMode = .none ∧ fc.srcAddrMode = .none)

/-! ### Field widths -/

/-- `alen` (30_encoding.md R85): the bytes of an address field. The reserved mode has a free value, since the spec never
evaluates it there (log entry 9). -/
def alen : AddrMode → Nat
  | .none => 0
  | .short => 2
  | .extended => 8
  | .reserved => Config.reservedAddrLen

/-- The bytes of the sequence number: none when it is suppressed (30_encoding.md R88). -/
def seqLen (suppressed : Bool) : Nat := if suppressed then 0 else 1

/-- The bytes of a PAN ID: none when it is absent (30_encoding.md R88). -/
def panIdLen (present : Bool) : Nat := if present then 2 else 0

/-- `hdrLen` (30_encoding.md R89), from the frame control and the resolver's output for it. -/
def hdrLen (fc : FrameControl) (p : Presence) : Nat :=
  2 + seqLen fc.seqNumSuppressed + panIdLen p.dpan + alen fc.dstAddrMode + panIdLen p.span + alen fc.srcAddrMode

/-! ### Reading: a cursor over IN_BUF -/

/-- `Need(k)` (42_serializer.md R150): FRAME_SIZE_ERROR when fewer than `k` bytes remain. -/
def need (n pos k : Nat) : Except ResultCode Unit := raiseIf (n - pos < k) .frameSizeError

/-- `k` bytes at the cursor, after `Need(k)`, and the cursor after them (42_serializer.md R150). -/
def readField (buf : Memory) (n pos k : Nat) : Except ResultCode (List Byte × Nat) := do
  need n pos k
  return (buf.readBytes pos k, pos + k)

/-- ReadU8 (42_serializer.md R151). -/
def readU8 (buf : Memory) (n pos : Nat) : Except ResultCode (Byte × Nat) := do
  let (bs, pos) ← readField buf n pos 1
  return (leValue 8 bs, pos)

/-- ReadLE16 (42_serializer.md R152). -/
def readLE16 (buf : Memory) (n pos : Nat) : Except ResultCode (Half × Nat) := do
  let (bs, pos) ← readField buf n pos 2
  return (leValue 16 bs, pos)

/-- ReadAddr (42_serializer.md R153): a short address is zero-extended. The reserved mode is unreachable; it is refused
with its own code (93_implementation_defined.md I4, log entry 9). -/
def readAddr (buf : Memory) (n pos : Nat) : AddrMode → Except ResultCode (Addr × Nat)
  | .none => return (0, pos)
  | .short => do
    let (v, pos) ← readLE16 buf n pos
    return (v.setWidth 64, pos)
  | .extended => do
    let (bs, pos) ← readField buf n pos 8
    return (leValue 64 bs, pos)
  | .reserved => .error .invalidAddressingMode

/-- A 16-bit field that is read only when present; else the 0 of the fresh FD stays (42_serializer.md R155). -/
def readPanId (present : Bool) (buf : Memory) (n pos : Nat) : Except ResultCode (Half × Nat) :=
  if present then readLE16 buf n pos else return (0, pos)

/-- The sequence number, read only when it is not suppressed (42_serializer.md R155). -/
def readSeq (suppressed : Bool) (buf : Memory) (n pos : Nat) : Except ResultCode (Byte × Nat) :=
  if suppressed then return (0, pos) else readU8 buf n pos

/-- UNPACK step 9: the fields in order (42_serializer.md R155), the payload (R156) and the FCS (R157), into a fresh FD. -/
def readFields (buf : Memory) (n : Nat) (fc : FrameControl) (p : Presence) : Except ResultCode FrameDesc := do
  let (seq, pos) ← readSeq fc.seqNumSuppressed buf n 2
  let (dpan, pos) ← readPanId p.dpan buf n pos
  let (daddr, pos) ← readAddr buf n pos fc.dstAddrMode
  let (span, pos) ← readPanId p.span buf n pos
  let (saddr, pos) ← readAddr buf n pos fc.srcAddrMode
  need n pos 2
  let plen := n - pos - 2
  let payload := Memory.writeBytes [] 0 (buf.readBytes pos plen)
  let (fcs, _) ← readLE16 buf n (pos + plen)
  return { fc, seq, dpan, daddr, span, saddr, plen := BitVec.ofNat 8 plen, payload, fcs }

/-! ### The PAN-ID post-step -/

/-- The FD after the post-step, with DPAN_INFERRED and SPAN_INFERRED. -/
structure Inferred where
  fd : FrameDesc
  dinf : Bool
  sinf : Bool
deriving DecidableEq, Repr

/-- `fd.dpan <- fd.span ; DPAN_INFERRED <- 1` (42_serializer.md R160). -/
def Inferred.copyToDpan (r : Inferred) : Inferred := ⟨{ r.fd with dpan := r.fd.span }, true, r.sinf⟩

/-- `fd.span <- fd.dpan ; SPAN_INFERRED <- 1` (42_serializer.md R160, R162). -/
def Inferred.copyToSpan (r : Inferred) : Inferred := ⟨{ r.fd with span := r.fd.dpan }, r.dinf, true⟩

/-- The missing-PAN-ID inference (42_serializer.md R160), then the compression inference (R162); nothing for version
0b10 (R163). -/
def inferPanIds (fc : FrameControl) (fd : FrameDesc) : Inferred :=
  let guarded := isV01 fc.frameVersion && isDataOrCommand fc.frameType
  let r : Inferred := ⟨fd, false, false⟩
  let r := if guarded && decide (fc.dstAddrMode = .none) then r.copyToDpan else r
  let r := if guarded && decide (fc.srcAddrMode = .none) then r.copyToSpan else r
  if isV01 fc.frameVersion && decide (fc.dstAddrMode ≠ .none ∧ fc.srcAddrMode ≠ .none) && fc.panIdCompression then
    r.copyToSpan
  else r

/-- UNPACK step 10: the both-none check (42_serializer.md R161), then the inferences. -/
def postStep (fc : FrameControl) (fd : FrameDesc) : Except ResultCode Inferred := do
  raiseIf (bothNone fc = true) .invalidAddressingMode
  return inferPanIds fc fd

/-! ### Writing: a cursor over the output -/

/-- The output under construction and its cursor (44_facades.md R211 step P2). -/
structure Output where
  buf : Memory
  pos : Nat
deriving DecidableEq, Repr

/-- `Emit` (42_serializer.md R154). -/
def Output.emit (o : Output) (bytes : List Byte) : Output where
  buf := o.buf.writeBytes o.pos bytes
  pos := o.pos + bytes.length

/-- An address field as PACK sends it (42_serializer.md R158): the low 2 bytes for short, all 8 for extended, nothing for
none. -/
def addrBytes : AddrMode → Addr → List Byte
  | .none, _ => []
  | .short, v => bytesLE 2 v
  | .extended, v => bytesLE 8 v
  | .reserved, _ => []

/-- PACK step P11: the fields in the order UNPACK reads them (42_serializer.md R158). -/
def writeFields (fd : FrameDesc) (p : Presence) : Output :=
  let o : Output := ⟨[], 0⟩
  let o := o.emit (bytesLE 2 (fcEncode fd.fc))
  let o := if fd.fc.seqNumSuppressed then o else o.emit [fd.seq]
  let o := if p.dpan then o.emit (bytesLE 2 fd.dpan) else o
  let o := o.emit (addrBytes fd.fc.dstAddrMode fd.daddr)
  let o := if p.span then o.emit (bytesLE 2 fd.span) else o
  let o := o.emit (addrBytes fd.fc.srcAddrMode fd.saddr)
  o.emit (fd.payload.readBytes 0 fd.plen.toNat)

end Sys2Proof.Machine
end

