-- ==== Sys2Proof/Machine/Pack.lean ====
section
/-! DEFINITION. The pack sequencer (44_facades.md R210 to R214). -/

namespace Sys2Proof.Machine

/-- What a successful PACK made: the resolver's output, the final length and the output buffer. -/
structure Packed where
  presence : Presence
  length : Nat
  buf : Memory
deriving DecidableEq, Repr

/-- The final length `L` (42_serializer.md R159). -/
def packLength (fd : FrameDesc) (p : Presence) : Nat := hdrLen fd.fc p + fd.plen.toNat + 2

/-- PACK step P12: the FCS of all bytes written so far, appended (43_fcs.md R184). -/
def appendFcs (alg : CrcAlgorithm) (o : Output) : Output :=
  o.emit (bytesLE 2 (crc16 alg (o.buf.readBytes 0 o.pos)))

/-- The steps of PACK, P1 to P12, in the order of 44_facades.md R211. -/
def packSteps (cfg : Config) (s : State) : Except ResultCode Packed := do
  raiseIf (s.fdValid = false ∨ s.outValid = false) .parameterError
  let fc := s.fd.fc
  checkFrameControl fc
  let p ← resolveFc cfg fc
  raiseIf (packLength s.fd p > cfg.maxPackLen) .frameSizeError
  raiseIf (bothNone fc = true) .invalidAddressingMode
  let o := appendFcs cfg.crc (writeFields s.fd p)
  return ⟨p, packLength s.fd p, o.buf⟩

/-- The effects of a successful PACK (44_facades.md R211 step P12). -/
def commitPack (r : Packed) (s : State) : State :=
  ((s.setOut (BitVec.ofNat 8 r.length) r.buf).setStatus (statusOf r.presence false false)).setResult .success

/-- PACK under any configuration (44_facades.md R211). -/
def packWith (cfg : Config) (s : State) : State := conclude .pack commitPack (packSteps cfg s) s

/-- PACK, command code 0x02 (44_facades.md R211). -/
def execPack (s : State) : Host.Outcome State Fault Refusal := .next (packWith standard s)

end Sys2Proof.Machine
end

