-- ==== Sys2Proof/Machine/Unpack.lean ====
section
/-! DEFINITION. The unpack sequencer (44_facades.md R200 to R204). -/

namespace Sys2Proof.Machine

/-- What a successful UNPACK found: the resolver's output and the FD after the post-step. -/
structure Unpacked where
  presence : Presence
  inferred : Inferred
deriving DecidableEq, Repr

/-- The steps of UNPACK, 1 to 11, in the order of 44_facades.md R201. -/
def unpackSteps (cfg : Config) (s : State) : Except ResultCode Unpacked := do
  raiseIf (s.inValid = false ∨ s.fdValid = false) .parameterError
  let n := s.inLen.toNat
  raiseIf (n < cfg.minFrameLen ∨ n > cfg.maxFrameLen) .frameSizeError
  let fc := wireFc s.inBuf
  checkFrameControl fc
  let p ← resolveFc cfg fc
  let fd ← readFields s.inBuf n fc p
  let r ← postStep fc fd
  raiseIf (crc16 cfg.crc (s.inBuf.readBytes 0 (n - 2)) ≠ r.fd.fcs) .fcsMismatch
  return ⟨p, r⟩

/-- Step 12 of UNPACK (44_facades.md R201). -/
def commitUnpack (u : Unpacked) (s : State) : State :=
  ((s.setFd u.inferred.fd).setStatus (statusOf u.presence u.inferred.dinf u.inferred.sinf)).setResult .success

/-- UNPACK under any configuration (44_facades.md R201). -/
def unpackWith (cfg : Config) (s : State) : State := conclude .unpack commitUnpack (unpackSteps cfg s) s

/-- UNPACK, command code 0x01 (44_facades.md R201). -/
def execUnpack (s : State) : Host.Outcome State Fault Refusal := .next (unpackWith standard s)

end Sys2Proof.Machine
end

