-- ==== Sys2Proof/Machine/Window.lean ====
section
/-! DEFINITION. The host window (10_state.md section 3): which register an offset belongs to, what a byte read answers and
what a byte write stores (R46). -/

namespace Sys2Proof.Machine

/-- The registers of the window map (10_state.md section 3), in its order. -/
inductive Reg where
  | cmd
  | result
  | status
  | ctrl
  | inLen
  | outLen
  | fdPlen
  | fdSeq
  | fdFc
  | fdDpan
  | fdSpan
  | fdFcs
  | fdDaddr
  | fdSaddr
  | crcOut
  | reserved
  | inBuf
  | outBuf
  | fdPayload
deriving DecidableEq, Repr

/-- One row of the window map: a register, its first offset and its size in bytes. -/
structure WindowRow where
  reg : Reg
  base : Nat
  size : Nat
deriving DecidableEq, Repr

/-- The window map (10_state.md section 3). -/
def windowMap : List WindowRow := [
  ⟨.cmd, 0x000, 1⟩,
  ⟨.result, 0x001, 1⟩,
  ⟨.status, 0x002, 1⟩,
  ⟨.ctrl, 0x003, 1⟩,
  ⟨.inLen, 0x004, 1⟩,
  ⟨.outLen, 0x005, 1⟩,
  ⟨.fdPlen, 0x006, 1⟩,
  ⟨.fdSeq, 0x007, 1⟩,
  ⟨.fdFc, 0x008, 2⟩,
  ⟨.fdDpan, 0x00A, 2⟩,
  ⟨.fdSpan, 0x00C, 2⟩,
  ⟨.fdFcs, 0x00E, 2⟩,
  ⟨.fdDaddr, 0x010, 8⟩,
  ⟨.fdSaddr, 0x018, 8⟩,
  ⟨.crcOut, 0x020, 2⟩,
  ⟨.reserved, 0x022, 0x5E⟩,
  ⟨.inBuf, 0x080, 128⟩,
  ⟨.outBuf, 0x100, 128⟩,
  ⟨.fdPayload, 0x180, 128⟩]

/-- A row covers an offset. -/
def WindowRow.covers (r : WindowRow) (off : Nat) : Bool := decide (r.base ≤ off ∧ off < r.base + r.size)

/-- The register an offset belongs to and the byte of it; none outside the window (20_memory.md R63). -/
def locate (off : Nat) : Option (Reg × Nat) :=
  (windowMap.find? (·.covers off)).map fun r => (r.reg, off - r.base)

/-- What a host read of byte `i` of a register answers (10_state.md R27 to R46): unused bits and reserved offsets read
0, FD_FC reads FcEncode of its record (R35). -/
def readReg (r : Reg) (i : Nat) (s : State) : Byte :=
  match r with
  | .cmd => s.cmd
  | .result => s.result
  | .status => s.status.setWidth 8
  | .ctrl => s.ctrl.setWidth 8
  | .inLen => s.inLen
  | .outLen => s.outLen
  | .fdPlen => s.fd.plen
  | .fdSeq => s.fd.seq
  | .fdFc => byteAt (fcEncode s.fd.fc) i
  | .fdDpan => byteAt s.fd.dpan i
  | .fdSpan => byteAt s.fd.span i
  | .fdFcs => byteAt s.fd.fcs i
  | .fdDaddr => byteAt s.fd.daddr i
  | .fdSaddr => byteAt s.fd.saddr i
  | .crcOut => byteAt s.crcOut i
  | .reserved => 0x00
  | .inBuf => s.inBuf.read i
  | .outBuf => s.outBuf.read i
  | .fdPayload => s.fd.payload.read i

/-- What a host write of byte `i` of a register stores (10_state.md R46): that byte only; nothing at a read-only or
reserved byte; at FD_FC the byte goes through FcDecode, which drops bit 7 (R35); CTRL keeps bits 2:0 (R30). At CMD this
is the store alone: the command it runs is `hostWrite`'s (R27). -/
def writeReg (r : Reg) (i : Nat) (v : Byte) (s : State) : State :=
  match r with
  | .cmd => s.setCmd v
  | .result => s
  | .status => s
  | .ctrl => { s with ctrl := v.setWidth 3 }
  | .inLen => { s with inLen := v }
  | .outLen => s
  | .fdPlen => s.setFd { s.fd with plen := v }
  | .fdSeq => s.setFd { s.fd with seq := v }
  | .fdFc => s.setFd { s.fd with fc := fcDecode (setByteAt (fcEncode s.fd.fc) i v) }
  | .fdDpan => s.setFd { s.fd with dpan := setByteAt s.fd.dpan i v }
  | .fdSpan => s.setFd { s.fd with span := setByteAt s.fd.span i v }
  | .fdFcs => s.setFd { s.fd with fcs := setByteAt s.fd.fcs i v }
  | .fdDaddr => s.setFd { s.fd with daddr := setByteAt s.fd.daddr i v }
  | .fdSaddr => s.setFd { s.fd with saddr := setByteAt s.fd.saddr i v }
  | .crcOut => s
  | .reserved => s
  | .inBuf => { s with inBuf := s.inBuf.write i v }
  | .outBuf => s
  | .fdPayload => s.setFd { s.fd with payload := s.fd.payload.write i v }

/-- One byte of the window as the host reads it; none outside the window. -/
def State.window (s : State) (off : Nat) : Option Byte := (locate off).map fun (r, i) => readReg r i s

/-- The value the host assembles from `n` byte reads from `off` on (`rd16`, `rd64` of 30_encoding.md R94), where all of
them are in the window. -/
def State.windowLE (s : State) (n off : Nat) : Option (BitVec (8 * n)) :=
  ((List.range n).mapM fun i => s.window (off + i)).map (leValue (8 * n))

/-- The window offset of an address of the host's, from WINDOW_BASE (20_memory.md R63); none outside the window. -/
def offsetOf (addr : Nat) : Option Nat :=
  if Config.windowBase ≤ addr ∧ addr < Config.windowBase + windowSize then some (addr - Config.windowBase) else none

end Sys2Proof.Machine
end

