-- ==== Sys2Proof/Machine/Access.lean ====
section
/-! DEFINITION. What one host event does to the block (10_state.md R27, R46; 70_reset_and_hazards.md R270). -/

namespace Sys2Proof.Machine

/-- The command a byte written to CMD runs (10_state.md R27): a command of the table, or the UNKNOWN rule of a reserved
code (30_encoding.md R82, 44_facades.md R221). -/
def issueCommand (code : Byte) (s : State) : Host.Outcome State Fault Refusal :=
  match decode [code] with
  | .ok (i, _) => exec i s
  | .error _ => .next (unknownCommand s)

/-- A host byte write (10_state.md R46). A write to CMD stores its byte and then runs the command, in one transition
(R27, 20_memory.md R64). An offset outside the window stops by name (log entry 4). -/
def hostWrite (off : Nat) (v : Byte) (s : State) : Host.Outcome State Fault Refusal :=
  match locate off with
  | none => .fault (.outsideWindow off)
  | some (.cmd, i) => issueCommand v (writeReg .cmd i v s)
  | some (r, i) => .next (writeReg r i v s)

/-- A host byte read (10_state.md R46): no side effect on the block; the answer goes to the host's own field. -/
def hostRead (off : Nat) (s : State) : Host.Outcome State Fault Refusal :=
  match s.window off with
  | none => .fault (.outsideWindow off)
  | some b => .next (s.setReadData b)

/-- One host event. -/
def runEvent (e : HostEvent) (s : State) : Host.Outcome State Fault Refusal :=
  match e with
  | .write off v => hostWrite off v s
  | .read off => hostRead off s
  | .writeReadData off => hostWrite off s.readData s
  | .reset => .next (resetEvent s)

/-- The state with a list of host events placed before those it holds: how a host program is loaded (log entry 1). -/
def State.withHost (s : State) (es : List HostEvent) : State := s.setHost (es ++ s.host)

/-- The next host event, a write of CMD: how a command comes to run (10_state.md R27). -/
def commandEvent (nbits w : Nat) : HostEvent := .write cmdOffset (tableByte nbits w)

end Sys2Proof.Machine
end

