-- ==== Sys2Proof/Machine/Step.lean ====
section
/-! DEFINITION. One step: the oldest host event takes effect (20_memory.md R69). -/

namespace Sys2Proof.Machine

/-- With no host event to come the block is idle and its state stays (70_reset_and_hazards.md R271, log entry 2). Else
the oldest event leaves the queue and takes effect, a command it issues included (20_memory.md R64, R69). -/
def step (s : State) : Host.Outcome State Fault Refusal :=
  match s.host with
  | [] => .next s
  | e :: es => runEvent e (s.setHost es)

/-- The state in which the host's next event writes the table word to CMD, which is where the block takes its next
instruction from (10_state.md R21, R27; log entry 1). -/
def State.withFetchWord (s : State) (nbits w : Nat) : State := s.withHost [commandEvent nbits w]

end Sys2Proof.Machine
end

