-- ==== Sys2Proof/Machine/Layout.lean ====
section
/-! DEFINITION. The frame layout in closed form (30_encoding.md R88 to R90, R93): where each field of a frame lies, the FD a
frame's bytes give, the bytes a frame description gives, and the outcome each command has. The sequencers reach the same by
a cursor (42_serializer.md); statements are written with these. -/

namespace Sys2Proof.Machine

/-- The offset of the destination PAN ID (30_encoding.md R88). -/
def dpanAt (fc : FrameControl) : Nat := 2 + seqLen fc.seqNumSuppressed

/-- The offset of the destination address (30_encoding.md R88). -/
def daddrAt (fc : FrameControl) (p : Presence) : Nat := dpanAt fc + panIdLen p.dpan

/-- The offset of the source PAN ID (30_encoding.md R88). -/
def spanAt (fc : FrameControl) (p : Presence) : Nat := daddrAt fc p + alen fc.dstAddrMode

/-- The offset of the source address (30_encoding.md R88). -/
def saddrAt (fc : FrameControl) (p : Presence) : Nat := spanAt fc p + panIdLen p.span

/-- The fields of a frame of `n` bytes as received (30_encoding.md R93): an absent field is 0, a short address is
zero-extended, the payload is what lies between the header and the FCS (R90). -/
def receivedFd (buf : Memory) (n : Nat) (fc : FrameControl) (p : Presence) : FrameDesc where
  fc := fc
  seq := if fc.seqNumSuppressed then 0 else buf.read 2
  dpan := if p.dpan then leValue 16 (buf.readBytes (dpanAt fc) 2) else 0
  daddr := leValue 64 (buf.readBytes (daddrAt fc p) (alen fc.dstAddrMode))
  span := if p.span then leValue 16 (buf.readBytes (spanAt fc p) 2) else 0
  saddr := leValue 64 (buf.readBytes (saddrAt fc p) (alen fc.srcAddrMode))
  plen := BitVec.ofNat 8 (n - hdrLen fc p - 2)
  payload := Memory.writeBytes [] 0 (buf.readBytes (hdrLen fc p) (n - hdrLen fc p - 2))
  fcs := leValue 16 (buf.readBytes (n - 2) 2)

/-- The MHR of a frame description (30_encoding.md R88, fields 1 to 6). -/
def headerBytes (fd : FrameDesc) (p : Presence) : List Byte :=
  bytesLE 2 (fcEncode fd.fc)
  ++ (if fd.fc.seqNumSuppressed then [] else [fd.seq])
  ++ (if p.dpan then bytesLE 2 fd.dpan else [])
  ++ addrBytes fd.fc.dstAddrMode fd.daddr
  ++ (if p.span then bytesLE 2 fd.span else [])
  ++ addrBytes fd.fc.srcAddrMode fd.saddr

/-- Fields 1 to 7 of 30_encoding.md R88: what the FCS covers (43_fcs.md R183, R184). -/
def bodyBytes (fd : FrameDesc) (p : Presence) : List Byte :=
  headerBytes fd p ++ fd.payload.readBytes 0 fd.plen.toNat

/-- The whole frame (30_encoding.md R88): the body and its CRC, little-endian. -/
def frameBytes (alg : CrcAlgorithm) (fd : FrameDesc) (p : Presence) : List Byte :=
  bodyBytes fd p ++ bytesLE 2 (crc16 alg (bodyBytes fd p))

/-- The resolver's full result for the accepted versions and the default table, read off the table of
41_resolver.md R137, the reserved mode apart. -/
def expectedPresence (fver : FrameVersion) (dam sam : AddrMode) (panc : Bool) : Presence :=
  match decide (fver = .v10), dam, sam, panc with
  | false, .none, .none, _ => ⟨false, false⟩
  | false, .none, _, _ => ⟨false, true⟩
  | false, _, .none, _ => ⟨true, false⟩
  | false, _, _, false => ⟨true, true⟩
  | false, _, _, true => ⟨true, false⟩
  | true, .none, .none, false => ⟨false, false⟩
  | true, .none, .none, true => ⟨true, false⟩
  | true, .none, _, false => ⟨false, true⟩
  | true, .none, _, true => ⟨false, false⟩
  | true, _, .none, false => ⟨true, false⟩
  | true, _, .none, true => ⟨false, false⟩
  | true, .extended, .extended, false => ⟨true, false⟩
  | true, .extended, .extended, true => ⟨false, false⟩
  | true, _, _, false => ⟨true, true⟩
  | true, _, _, true => ⟨true, false⟩

/-- `expectedPresence` of a frame-control record. -/
def fcPresence (fc : FrameControl) : Presence :=
  expectedPresence fc.frameVersion fc.dstAddrMode fc.srcAddrMode fc.panIdCompression

/-- A frame control that steps 4 to 7 of UNPACK and P4 to P7 of PACK let pass (30_encoding.md R91): version 0b00, 0b01 or
0b10, an accepted type, no reserved mode, no security, no IE. -/
def acceptedFc (fc : FrameControl) : Prop :=
  fc.frameVersion ≠ .v11 ∧
  (fc.frameType = .beacon ∨ fc.frameType = .data ∨ fc.frameType = .ack ∨ fc.frameType = .command) ∧
  fc.dstAddrMode ≠ .reserved ∧ fc.srcAddrMode ≠ .reserved ∧ fc.securityEnabled = false ∧ fc.iePresent = false

/-- When the post-step infers the destination PAN ID (42_serializer.md R160). -/
def infersDpan (fc : FrameControl) : Bool :=
  isV01 fc.frameVersion && isDataOrCommand fc.frameType && decide (fc.dstAddrMode = .none)

/-- When the post-step infers the source PAN ID (42_serializer.md R160, R162). -/
def infersSpan (fc : FrameControl) : Bool :=
  isV01 fc.frameVersion &&
    ((isDataOrCommand fc.frameType && decide (fc.srcAddrMode = .none)) ||
      (decide (fc.dstAddrMode ≠ .none ∧ fc.srcAddrMode ≠ .none) && fc.panIdCompression))

/-- The first frame-control cause of 60_exceptions.md R240, in the order of R242; none for an accepted frame control. -/
def fcOutcome (fc : FrameControl) : Option ResultCode :=
  if fc.frameVersion = .v11 then some .invalidFrameVersion
  else if 4 ≤ fc.frameType.bits.toNat then some .unsupportedFrameType
  else if fc.dstAddrMode = .reserved ∨ fc.srcAddrMode = .reserved then some .invalidAddressingMode
  else if fc.securityEnabled = true ∨ fc.iePresent = true then some .unsupportedFeature
  else none

/-- The outcome of UNPACK (60_exceptions.md R240), the first cause in the order of R242. -/
def unpackOutcome (s : State) : ResultCode :=
  if s.inValid = false ∨ s.fdValid = false then .parameterError
  else if s.inLen.toNat < 2 ∨ 128 < s.inLen.toNat then .frameSizeError
  else (fcOutcome (wireFc s.inBuf)).getD <|
    if s.inLen.toNat < hdrLen (wireFc s.inBuf) (fcPresence (wireFc s.inBuf)) + 2 then .frameSizeError
    else if bothNone (wireFc s.inBuf) = true then .invalidAddressingMode
    else if crc16 standardCrc (s.inBuf.readBytes 0 (s.inLen.toNat - 2)) ≠
      leValue 16 (s.inBuf.readBytes (s.inLen.toNat - 2) 2) then .fcsMismatch
    else .success

/-- The outcome of PACK (60_exceptions.md R240), the first cause in the order of R242. -/
def packOutcome (s : State) : ResultCode :=
  if s.fdValid = false ∨ s.outValid = false then .parameterError
  else (fcOutcome s.fd.fc).getD <|
    if 127 < hdrLen s.fd.fc (fcPresence s.fd.fc) + s.fd.plen.toNat + 2 then .frameSizeError
    else if bothNone s.fd.fc = true then .invalidAddressingMode
    else .success

/-- The outcome of RESOLVE under the default table (41_resolver.md R130, R136). -/
def resolveOutcome (s : State) : ResultCode :=
  if s.fd.fc.frameVersion = .v11 then .invalidFrameVersion
  else if s.fd.fc.dstAddrMode = .reserved ∨ s.fd.fc.srcAddrMode = .reserved then .invalidAddressingMode
  else .success

/-- The outcome of CRC16 (43_fcs.md R185). -/
def crc16Outcome (s : State) : ResultCode := if 128 < s.inLen.toNat then .frameSizeError else .success

/-- The outcome a command writes to RESULT (10_state.md R28); NOP writes none (44_facades.md R220). -/
def outcomeOf (i : Instr) (s : State) : Option ResultCode :=
  match i with
  | .nop => none
  | .unpack => some (unpackOutcome s)
  | .pack => some (packOutcome s)
  | .resolve => some (resolveOutcome s)
  | .crc16 => some (crc16Outcome s)

end Sys2Proof.Machine
end

