-- ==== Sys2Proof/Safety.lean ====
section
/-! DEFINITION. What a state of the block always satisfies, and what a host must do for a run never to stop. -/

namespace Sys2Proof.Machine

/-- The three frame spaces are in canonical form. -/
def State.memWf (s : State) : Prop := Memory.wf s.inBuf ∧ Memory.wf s.outBuf ∧ Memory.wf s.fd.payload

/-- RESULT holds a code of 30_encoding.md R87: 0x09 to 0xFE are never written. -/
def State.resultListed (s : State) : Prop := s.result.toNat ≤ 8 ∨ s.result.toNat = 255

/-- STATUS is consistent (42_serializer.md R164): an inferred PAN ID is not on the wire, and the PAN ID it was copied from
is. -/
def State.statusConsistent (s : State) : Prop :=
  (s.dpanInferred = true → s.dpanPresent = false ∧ s.spanPresent = true) ∧
  (s.spanInferred = true → s.spanPresent = false ∧ s.dpanPresent = true)

/-- OUT_BUF and OUT_LEN hold a whole frame or nothing (10_state.md R32, R43; 60_exceptions.md R243): OUT_LEN is 0 and every
byte is 0x00; or OUT_LEN is 4 to 127, the bytes past it are 0x00, and the frame, FCS included, has CRC 0
(43_fcs.md R186). -/
def State.outputWhole (s : State) : Prop :=
  (s.outLen = 0 ∧ s.outBuf = []) ∨
  (4 ≤ s.outLen.toNat ∧ s.outLen.toNat ≤ 127 ∧ (∀ a, s.outLen.toNat ≤ a → s.outBuf.read a = 0) ∧
    crc16 standardCrc (s.outBuf.readBytes 0 s.outLen.toNat) = 0)

/-- The invariant of the block. -/
def State.Inv (s : State) : Prop := s.memWf ∧ s.resultListed ∧ s.statusConsistent ∧ s.outputWhole

/-- Every host event still to come is to the block: its offset is inside the window (20_memory.md R63). A run from a state
with this never stops. -/
def State.hostInside (s : State) : Prop := ∀ e ∈ s.host, e.wf = true

end Sys2Proof.Machine
end

