-- ==== Sys2Proof/Certificates/Slice0/Obligations.lean ====
section
/-! DEFINITION. The statements about the block, one Prop each. The rule a statement formalises is in its docstring and in
OBLIGATIONS.json. -/

open Sys2Proof Sys2Proof.Machine
open Host (Outcome)

/-! ### Reset -/

/-- 70_reset_and_hazards.md R270: a reset event sets every register of the window to its reset value; the FD is then a
version-0b00 beacon with both modes none, SNS = 0 and an empty payload; the state after reset reads the same. That a reset
is one of the host's events is the model's, log entry 11. -/
def Obligations.ResetSetsEveryRegister : Prop :=
  (∀ (s : State) es, s.host = HostEvent.reset :: es →
    ∃ t, step s = .next t ∧ (∀ off, off < 0x200 → t.window off = some (if off = 1 then 0xFF else 0x00)) ∧
      t.fd.fc.frameType = .beacon ∧ t.fd.fc.frameVersion = .v00 ∧ t.fd.fc.dstAddrMode = .none ∧
      t.fd.fc.srcAddrMode = .none ∧ t.fd.fc.seqNumSuppressed = false ∧ t.fd.plen = 0) ∧
  ∀ off, off < 0x200 → State.reset.window off = some (if off = 1 then 0xFF else 0x00)

/-- 70_reset_and_hazards.md R271: a reset that arrives while a command runs abandons it and gives the state of R270. In
the model (log entry 11) that is a reset right after any write of CMD; the host's own queue and the byte read last (log
entry 3), which are no registers of the window, stay. -/
def Obligations.ResetAbandonsCommand : Prop :=
  ∀ (s : State) c es, s.host = HostEvent.write 0x000 c :: HostEvent.reset :: es →
    ∃ u, step s = .next u ∧ step u = .next { State.reset with host := es, readData := s.readData }

/-- 70_reset_and_hazards.md R272: what each command does straight after reset. -/
def Obligations.CommandsStraightAfterReset : Prop :=
  exec .unpack State.reset = .next { State.reset with result := 0x01 } ∧
  exec .pack State.reset = .next { State.reset with result := 0x01 } ∧
  exec .resolve State.reset = .next { State.reset with result := 0x00, status := 0 } ∧
  exec .crc16 State.reset = .next { State.reset with result := 0x00, crcOut := 0x0000 } ∧
  exec .nop State.reset = .next State.reset ∧
  ∃ u t, hostWrite 0x003 0x06 State.reset = .next u ∧ exec .pack u = .next t ∧ t.result = 0x00 ∧ t.outLen = 5 ∧
    t.status = 0 ∧ t.outBuf.readBytes 0 5 = [0x00, 0x00, 0x00, 0x00, 0x00]

/-! ### Commands: decoding, issuing, NOP and the reserved codes -/

/-- 30_encoding.md R81: the five words decode to the five commands, and the table word is read the same way. -/
def Obligations.CommandWordsDecode : Prop :=
  decode [0x00] = .ok (.nop, []) ∧ decode [0x01] = .ok (.unpack, []) ∧ decode [0x02] = .ok (.pack, []) ∧
  decode [0x03] = .ok (.resolve, []) ∧ decode [0x04] = .ok (.crc16, []) ∧ decode [0x05] = .error (.reservedCommand 0x05) ∧
  decodeTableWord 8 0x01 = some .unpack ∧ decodeTableWord 8 0x80 = none

/-- 30_encoding.md R80, R81: decoding an encoded command gives it back and leaves the rest of the bytes; a byte that
decodes to a command is that command's code. -/
def Obligations.CommandEncodingRoundTrip : Prop :=
  (∀ (i : Instr) rest, i.wf = true → decode (encode i ++ rest) = .ok (i, rest)) ∧
  ∀ b rest (i : Instr), decode (b :: rest) = .ok (i, rest) → encode i = [b]

/-- 10_state.md R27: a host write of c stores c in CMD and then runs the command whose code is c, in the same step; a read
of CMD gives the last value written; no command writes CMD; CMD is 0x00 after reset. A step is `exec` of the decoded
command, with the write taken off the host queue and CMD stored. -/
def Obligations.StepRunsWrittenCommand : Prop :=
  (∀ (s : State) c es (i : Instr), s.host = HostEvent.write 0x000 c :: es → decode [c] = .ok (i, []) →
    step s = exec i { s with host := es, cmd := c }) ∧
  (∀ (s : State) c es, s.host = HostEvent.write 0x000 c :: es →
    ∃ t, step s = .next t ∧ t.window 0x000 = some c ∧ t.host = es) ∧
  (∀ (i : Instr) (s : State) t, exec i s = .next t → t.cmd = s.cmd) ∧
  (∀ s : State, s.window 0x000 = some s.cmd) ∧ State.reset.cmd = 0x00

/-- Log entry 1, with `withFetchWord`: the next step of a state with a table word placed runs the decoded command, whatever
the queue held, and leaves the rest of the queue. The model's choice of where a command comes from. -/
def Obligations.FetchWordRunsNext : Prop :=
  ∀ (s : State) nbits w (i : Instr), decodeTableWord nbits w = some i →
    step (s.withFetchWord nbits w) = exec i { s with cmd := tableByte nbits w }

/-- 30_encoding.md R82, 44_facades.md R221: codes 0x05 to 0xFF are rejected by the decoder, and a write of one to CMD sets
RESULT to UNKNOWN_COMMAND and changes nothing else but CMD itself. -/
def Obligations.ReservedCodeRunsUnknown : Prop :=
  ∀ c : Byte, 5 ≤ c.toNat → decode [c] = .error (.reservedCommand c) ∧
    ∀ (s : State) es, s.host = HostEvent.write 0x000 c :: es →
      step s = .next { s with host := es, cmd := c, result := 0x08 }

/-- 44_facades.md R220: NOP changes no register. -/
def Obligations.NopChangesNothing : Prop :=
  ∀ s : State, exec .nop s = .next s

/-- 70_reset_and_hazards.md R276: every command completes, in every state. -/
def Obligations.EveryCommandCompletes : Prop :=
  ∀ (i : Instr) (s : State), ∃ t, exec i s = .next t ∧ t.host = s.host

/-- 20_memory.md R68, R69: with every host event inside the window no step stops; each step takes the oldest event, which
takes its effect, and leaves the others in order, still inside the window. The effects: a host write and a host read
(10_state.md R27, R46); the second half of a `copy` (30_encoding.md R94), which writes the byte read last; a reset, which
gives the window's registers their reset values (70_reset_and_hazards.md R270). The model's own choices in it: one event of
a queue a step (log entry 1), the idle step (log entry 2), the byte read last as a field of State (log entry 3), and a reset
as a host event that keeps the queue and that byte (log entries 11 and 3). -/
def Obligations.StepNeverStopsInsideWindow : Prop :=
  (∀ s : State, s.hostInside → ∃ t, step s = .next t ∧ t.host = s.host.tail ∧ t.hostInside) ∧
  (∀ (s : State) off v es, s.host = HostEvent.write off v :: es → step s = hostWrite off v { s with host := es }) ∧
  (∀ (s : State) off es, s.host = HostEvent.read off :: es → step s = hostRead off { s with host := es }) ∧
  (∀ (s : State) off es, s.host = HostEvent.writeReadData off :: es →
    step s = hostWrite off s.readData { s with host := es }) ∧
  (∀ (s : State) es, s.host = HostEvent.reset :: es →
    step s = .next { State.reset with host := es, readData := s.readData }) ∧
  ∀ s : State, s.host = [] → step s = .next s

/-- 20_memory.md R63 and log entry 4 (the model's choice): an access outside the window stops the step by name, and
nothing else does. -/
def Obligations.OnlyOutsideWindowStops : Prop :=
  (∀ (s : State) off v es, s.host = HostEvent.write off v :: es → 0x200 ≤ off → step s = .fault (.outsideWindow off)) ∧
  (∀ (s : State) off es, s.host = HostEvent.read off :: es → 0x200 ≤ off → step s = .fault (.outsideWindow off)) ∧
  (∀ (s : State) off es, s.host = HostEvent.writeReadData off :: es → 0x200 ≤ off → step s = .fault (.outsideWindow off)) ∧
  (∀ (s : State) f, step s = .fault f → ∃ off, f = .outsideWindow off ∧ 0x200 ≤ off) ∧
  ∀ (s : State) r, step s ≠ .refused r

/-! ### The frame-control word -/

/-- 40_frame_control.md R110: FcDecode takes each field from its bits, and bit 7 has no effect. -/
def Obligations.FcDecodeFields : Prop :=
  ∀ w : Half,
    (fcDecode w).frameType.bits = w.extractLsb' 0 3 ∧ (fcDecode w).securityEnabled = w.getLsbD 3 ∧
    (fcDecode w).framePending = w.getLsbD 4 ∧ (fcDecode w).ackRequest = w.getLsbD 5 ∧
    (fcDecode w).panIdCompression = w.getLsbD 6 ∧ (fcDecode w).seqNumSuppressed = w.getLsbD 8 ∧
    (fcDecode w).iePresent = w.getLsbD 9 ∧ (fcDecode w).dstAddrMode.bits = w.extractLsb' 10 2 ∧
    (fcDecode w).frameVersion.bits = w.extractLsb' 12 2 ∧ (fcDecode w).srcAddrMode.bits = w.extractLsb' 14 2 ∧
    fcDecode (w ^^^ 0x0080) = fcDecode w

/-- 40_frame_control.md R111: FcEncode puts each field at its bits, and bit 7 is always 0. -/
def Obligations.FcEncodeFields : Prop :=
  ∀ fc : FrameControl,
    (fcEncode fc).extractLsb' 0 3 = fc.frameType.bits ∧ (fcEncode fc).getLsbD 3 = fc.securityEnabled ∧
    (fcEncode fc).getLsbD 4 = fc.framePending ∧ (fcEncode fc).getLsbD 5 = fc.ackRequest ∧
    (fcEncode fc).getLsbD 6 = fc.panIdCompression ∧ (fcEncode fc).getLsbD 7 = false ∧
    (fcEncode fc).getLsbD 8 = fc.seqNumSuppressed ∧ (fcEncode fc).getLsbD 9 = fc.iePresent ∧
    (fcEncode fc).extractLsb' 10 2 = fc.dstAddrMode.bits ∧ (fcEncode fc).extractLsb' 12 2 = fc.frameVersion.bits ∧
    (fcEncode fc).extractLsb' 14 2 = fc.srcAddrMode.bits

/-- 40_frame_control.md R112: FcDecode after FcEncode is the identity on records; FcEncode after FcDecode clears bit 7 and
nothing else. -/
def Obligations.FrameControlRoundTrip : Prop :=
  (∀ fc, fcDecode (fcEncode fc) = fc) ∧ ∀ w, fcEncode (fcDecode w) = w &&& 0xFF7F

/-! ### The host window -/

/-- 10_state.md R46: a host write of one byte, CMD apart, changes that byte of the window and no other, runs no command,
and is ignored at a read-only or reserved byte; CTRL keeps bits 2:0 (R30) and the low byte of FD_FC drops bit 7 (R35). A
read changes no byte of the window. The one-byte registers of section 3 read at their offsets, with 0 above STATUS and CTRL
(R29, R30), and a multi-byte register lies least significant byte first. That the byte answered to a read goes to a field
of State is the model's, log entry 3. -/
def Obligations.HostByteAccess : Prop :=
  (∀ (s : State) off v, s.memWf → off < 0x200 → off ≠ 0x000 →
    ∃ t, hostWrite off v s = .next t ∧ t.host = s.host ∧ t.readData = s.readData ∧
      (∀ o, o < 0x200 → o ≠ off → t.window o = s.window o) ∧
      (off = 0x001 ∨ off = 0x002 ∨ off = 0x005 ∨ (0x020 ≤ off ∧ off < 0x080) ∨ (0x100 ≤ off ∧ off < 0x180) → t = s) ∧
      (off = 0x003 → t.window off = some (v &&& 0x07)) ∧
      (off = 0x008 → t.window off = some (v &&& 0x7F)) ∧
      (off = 0x004 ∨ off = 0x006 ∨ off = 0x007 ∨ (0x009 ≤ off ∧ off < 0x020) ∨ (0x080 ≤ off ∧ off < 0x100) ∨
        0x180 ≤ off → t.window off = some v)) ∧
  (∀ (s : State) off, off < 0x200 → ∃ b, s.window off = some b ∧ hostRead off s = .next { s with readData := b } ∧
    ∀ o, { s with readData := b }.window o = s.window o) ∧
  ∀ s : State, s.window 0x000 = some s.cmd ∧ s.window 0x001 = some s.result ∧
    s.window 0x002 = some (s.status.setWidth 8) ∧ s.window 0x003 = some (s.ctrl.setWidth 8) ∧
    s.window 0x004 = some s.inLen ∧ s.window 0x005 = some s.outLen ∧ s.window 0x006 = some s.fd.plen ∧
    s.window 0x007 = some s.fd.seq ∧ s.windowLE 2 0x008 = some (fcEncode s.fd.fc) ∧ s.windowLE 2 0x00A = some s.fd.dpan ∧
    s.windowLE 2 0x00C = some s.fd.span ∧ s.windowLE 2 0x00E = some s.fd.fcs ∧ s.windowLE 8 0x010 = some s.fd.daddr ∧
    s.windowLE 8 0x018 = some s.fd.saddr ∧ s.windowLE 2 0x020 = some s.crcOut

/-- 10_state.md R45: offsets 0x022 to 0x07F read 0x00 and host writes there are ignored; the window is 0x200 bytes, and an
offset of 0x200 or more is no byte of it. -/
def Obligations.ReservedOffsetsReadZero : Prop :=
  (∀ (s : State) off, 0x022 ≤ off → off < 0x080 → s.window off = some 0x00 ∧ ∀ v, hostWrite off v s = .next s) ∧
  ∀ (s : State) off, s.window off = none ↔ 0x200 ≤ off

/-- 10_state.md R42, R43, R44, 20_memory.md R67: the buffers' bytes in the window. -/
def Obligations.BufferWindows : Prop :=
  ∀ (s : State) a, a < 128 →
    s.window (0x080 + a) = some (s.inBuf.read a) ∧ s.window (0x100 + a) = some (s.outBuf.read a) ∧
    s.window (0x180 + a) = some (s.fd.payload.read a)

/-- 10_state.md R30: CTRL bits 7:3 read 0 and writes to them are ignored; no command writes CTRL. -/
def Obligations.CtrlKeepsThreeBits : Prop :=
  (∀ (s : State) v, hostWrite 0x003 v s = .next { s with ctrl := v.setWidth 3 }) ∧
  (∀ s : State, ∃ b : Byte, s.window 0x003 = some b ∧ b.getLsbD 0 = s.inValid ∧ b.getLsbD 1 = s.fdValid ∧
    b.getLsbD 2 = s.outValid ∧ b.toNat < 8) ∧
  ∀ (i : Instr) (s : State) t, exec i s = .next t → t.ctrl = s.ctrl

/-- 10_state.md R28: every command but NOP writes its outcome to RESULT: the code of the first cause of 60_exceptions.md
R240 that holds, SUCCESS when none does (`outcomeOf`), so never NO_RESULT; NOP leaves RESULT; a reserved code writes
UNKNOWN_COMMAND; a reset sets NO_RESULT, and no other step does; host writes to RESULT are ignored. -/
def Obligations.ResultHoldsTheOutcome : Prop :=
  (∀ (i : Instr) (s : State) t, exec i s = .next t → t.result = ((outcomeOf i s).map ResultCode.code).getD s.result) ∧
  (∀ (i : Instr) (s : State) t, i ≠ .nop → exec i s = .next t → t.result.toNat ≤ 7) ∧
  (∀ (s : State) t, exec .nop s = .next t → t.result = s.result) ∧
  (∀ (s : State) (c : Byte) es t, 5 ≤ c.toNat → s.host = HostEvent.write 0x000 c :: es → step s = .next t →
    t.result = 0x08) ∧
  (∀ (s : State) v, hostWrite 0x001 v s = .next s) ∧
  (∀ (s : State) es t, s.host = HostEvent.reset :: es → step s = .next t → t.result = 0xFF) ∧
  (∀ s t : State, step s = .next t → t.result = 0xFF → s.result = 0xFF ∨ ∃ es, s.host = HostEvent.reset :: es) ∧
  State.reset.result = 0xFF

/-- 30_encoding.md R94 with 10_state.md R35, R36 to R40: the host forms wr16 and wr64 leave exactly the value written in
their register, whatever it held before; a word written to FD_FC goes through FcDecode. The queue of byte writes they run
from is the model's, log entries 1 and 13. -/
def Obligations.WideWritesStoreTheValue : Prop :=
  ∀ s : State,
    (∀ v, Host.Core.run core 2 (s.setHost (HostForm.wr16 0x008 v).expand) =
      .next { s with host := [], fd := { s.fd with fc := fcDecode v } }) ∧
    (∀ v, Host.Core.run core 2 (s.setHost (HostForm.wr16 0x00A v).expand) =
      .next { s with host := [], fd := { s.fd with dpan := v } }) ∧
    (∀ v, Host.Core.run core 2 (s.setHost (HostForm.wr16 0x00C v).expand) =
      .next { s with host := [], fd := { s.fd with span := v } }) ∧
    (∀ v, Host.Core.run core 2 (s.setHost (HostForm.wr16 0x00E v).expand) =
      .next { s with host := [], fd := { s.fd with fcs := v } }) ∧
    (∀ v, Host.Core.run core 8 (s.setHost (HostForm.wr64 0x010 v).expand) =
      .next { s with host := [], fd := { s.fd with daddr := v } }) ∧
    ∀ v, Host.Core.run core 8 (s.setHost (HostForm.wr64 0x018 v).expand) =
      .next { s with host := [], fd := { s.fd with saddr := v } }

/-- 30_encoding.md R94, 20_memory.md R74: `copy OUT_BUF, IN_BUF, k` copies the first k bytes of OUT_BUF to IN_BUF and
changes no other register. The queue it runs from and the byte read last are the model's, log entries 1, 3 and 13. -/
def Obligations.CopyLoopsOutputBack : Prop :=
  ∀ (s : State) k, s.memWf → k ≤ 128 →
    ∃ t, Host.Core.run core (2 * k) (s.setHost (HostForm.copy 0x100 0x080 k).expand) = .next t ∧
      (∀ a, t.inBuf.read a = if a < k then s.outBuf.read a else s.inBuf.read a) ∧
      t = { s with inBuf := t.inBuf, readData := t.readData, host := [] }

/-! ### The resolver and RESOLVE -/

/-- 41_resolver.md R131, R133: for versions 0b00 and 0b01 the destination PAN ID is present iff the destination mode is not
none, the source PAN ID iff the source mode is not none, but for both present and compression set, which suppresses the
source PAN ID; whatever the table. -/
def Obligations.ResolveOldVersions : Prop :=
  ∀ table fver dam sam panc, fver = .v00 ∨ fver = .v01 → dam ≠ .reserved → sam ≠ .reserved →
    ∃ p, resolve table fver dam sam panc = .ok p ∧ (p.dpan = true ↔ dam ≠ .none) ∧
      (p.span = true ↔ sam ≠ .none ∧ ¬(dam ≠ .none ∧ panc = true))

/-- 41_resolver.md R132, R135: for version 0b10 the first row whose triple matches decides, whatever rows come after it; a
table with no such row gives INVALID_ADDRESSING_MODE. -/
def Obligations.ResolveTakesFirstMatch : Prop :=
  (∀ (before after : List PanIdRow) (r : PanIdRow), r.dam ≠ .reserved → r.sam ≠ .reserved →
    (∀ q ∈ before, (q.dam, q.sam, q.panc) ≠ (r.dam, r.sam, r.panc)) →
    resolve (before ++ r :: after) .v10 r.dam r.sam r.panc = .ok ⟨r.dpanPresent, r.spanPresent⟩) ∧
  ∀ table dam sam panc, dam ≠ .reserved → sam ≠ .reserved →
    (∀ q ∈ table, (q.dam, q.sam, q.panc) ≠ (dam, sam, panc)) →
    resolve table .v10 dam sam panc = .error .invalidAddressingMode

/-- 41_resolver.md R137: the full result of Resolve for the accepted versions and the default table. -/
def Obligations.ResolveFullTable : Prop :=
  ∀ fver dam sam panc, fver ≠ .v11 → dam ≠ .reserved → sam ≠ .reserved →
    resolve standard.panIdV2Table fver dam sam panc = .ok (expectedPresence fver dam sam panc)

/-- 41_resolver.md R136: RESOLVE. It completes in every state: SUCCESS with STATUS bits 1:0 the resolver's output and bits
3:2 zero; INVALID_FRAME_VERSION for version 3, tested first; INVALID_ADDRESSING_MODE for a reserved mode; and it reads
nothing of the frame control but the version, the modes and the compression flag. -/
def Obligations.ResolveCommand : Prop :=
  (∀ s : State, s.fd.fc.frameVersion ≠ .v11 → s.fd.fc.dstAddrMode ≠ .reserved → s.fd.fc.srcAddrMode ≠ .reserved →
    exec .resolve s = .next { s with
      result := 0x00
      status := 0#1 ++ 0#1 ++ BitVec.ofBool (fcPresence s.fd.fc).span ++ BitVec.ofBool (fcPresence s.fd.fc).dpan }) ∧
  (∀ s : State, s.fd.fc.frameVersion = .v11 → exec .resolve s = .next { s with result := 0x05, status := 0 }) ∧
  ∀ s : State, s.fd.fc.frameVersion ≠ .v11 → s.fd.fc.dstAddrMode = .reserved ∨ s.fd.fc.srcAddrMode = .reserved →
    exec .resolve s = .next { s with result := 0x04, status := 0 }

/-! ### The FCS engine and CRC16 -/

/-- 43_fcs.md R185: CRC16. It completes in every state: with IN_LEN at most 128, CRC_OUT is the CRC of all IN_LEN bytes of
IN_BUF and RESULT is SUCCESS; above, CRC_OUT is 0 and RESULT is FRAME_SIZE_ERROR; nothing else changes. -/
def Obligations.Crc16Command : Prop :=
  (∀ s : State, s.inLen.toNat ≤ 128 → exec .crc16 s =
    .next { s with result := 0x00, crcOut := crc16 standardCrc (s.inBuf.readBytes 0 s.inLen.toNat) }) ∧
  ∀ s : State, 128 < s.inLen.toNat → exec .crc16 s = .next { s with result := 0x02, crcOut := 0x0000 }

/-- 43_fcs.md R182: the table form equals the bitwise form, and entry i of the table is the CRC of the byte i. -/
def Obligations.CrcTableFormAgrees : Prop :=
  (∀ bytes, crc16ByTable bytes = crc16 standardCrc bytes) ∧
  ∀ b : Byte, crcTable[b.toNat]? = some (crc16 standardCrc [b])

/-- 43_fcs.md R186 item 1: a whole correct frame, FCS included, has CRC 0. -/
def Obligations.CrcResidueIsZero : Prop :=
  ∀ bytes, crc16 standardCrc (bytes ++ bytesLE 2 (crc16 standardCrc bytes)) = 0x0000

/-- 43_fcs.md R186 item 2: sequences of one length that differ in exactly one bit have different CRCs. -/
def Obligations.CrcDetectsOneBit : Prop :=
  ∀ (before after : List Byte) (b : Byte) (j : Nat), j < 8 →
    crc16 standardCrc (before ++ (b ^^^ (1#8 <<< j)) :: after) ≠ crc16 standardCrc (before ++ b :: after)

/-- 43_fcs.md R186 item 3: the CRC of the bitwise XOR of two sequences of one length is the XOR of their CRCs. -/
def Obligations.CrcIsLinear : Prop :=
  ∀ a b : List Byte, a.length = b.length →
    crc16 standardCrc (List.zipWith (· ^^^ ·) a b) = crc16 standardCrc a ^^^ crc16 standardCrc b

/-! ### Errors -/

/-- 60_exceptions.md R241: what a failing command leaves. UNPACK and PACK with PARAMETER_ERROR change RESULT only; UNPACK
with any other code zeroes STATUS and the FD; PACK with any other code zeroes STATUS, OUT_LEN and OUT_BUF; RESOLVE zeroes
STATUS; CRC16 zeroes CRC_OUT. -/
def Obligations.FailureEffects : Prop :=
  (∀ (s : State) t, exec .unpack s = .next t → t.result = 0x01 → t = { s with result := 0x01 }) ∧
  (∀ (s : State) t, exec .unpack s = .next t → t.result ≠ 0x00 → t.result ≠ 0x01 →
    t = { s with result := t.result, status := 0, fd := FrameDesc.zero }) ∧
  (∀ (s : State) t, exec .pack s = .next t → t.result = 0x01 → t = { s with result := 0x01 }) ∧
  (∀ (s : State) t, exec .pack s = .next t → t.result ≠ 0x00 → t.result ≠ 0x01 →
    t = { s with result := t.result, status := 0, outLen := 0, outBuf := [] }) ∧
  (∀ (s : State) t, exec .resolve s = .next t → t.result ≠ 0x00 → t = { s with result := t.result, status := 0 }) ∧
  ∀ (s : State) t, exec .crc16 s = .next t → t.result ≠ 0x00 → t = { s with result := t.result, crcOut := 0x0000 }

/-- 60_exceptions.md R242, 44_facades.md R202, 30_encoding.md R87: which code UNPACK reports, by the first test of its
order that fails. The tests of step 9 come to one comparison: the frame is shorter than its header and FCS. -/
def Obligations.UnpackReportsFirstError : Prop :=
  ∀ s : State, ∃ t, exec .unpack s = .next t ∧
    let n := s.inLen.toNat
    let fc := wireFc s.inBuf
    t.result =
      if s.inValid = false ∨ s.fdValid = false then 0x01
      else if n < 2 ∨ 128 < n then 0x02
      else if fc.frameVersion = .v11 then 0x05
      else if 4 ≤ fc.frameType.bits.toNat then 0x06
      else if fc.dstAddrMode = .reserved ∨ fc.srcAddrMode = .reserved then 0x04
      else if fc.securityEnabled = true ∨ fc.iePresent = true then 0x03
      else if n < hdrLen fc (fcPresence fc) + 2 then 0x02
      else if (fc.frameVersion = .v00 ∨ fc.frameVersion = .v01) ∧ (fc.frameType = .data ∨ fc.frameType = .command) ∧
        fc.dstAddrMode = .none ∧ fc.srcAddrMode = .none then 0x04
      else if crc16 standardCrc (s.inBuf.readBytes 0 (n - 2)) ≠ leValue 16 (s.inBuf.readBytes (n - 2) 2) then 0x07
      else 0x00

/-- 60_exceptions.md R242, 44_facades.md R212, 42_serializer.md R159: which code PACK reports, by the first test of its
order that fails; a projected length of 128 or more is FRAME_SIZE_ERROR. -/
def Obligations.PackReportsFirstError : Prop :=
  ∀ s : State, ∃ t, exec .pack s = .next t ∧
    let fc := s.fd.fc
    t.result =
      if s.fdValid = false ∨ s.outValid = false then 0x01
      else if fc.frameVersion = .v11 then 0x05
      else if 4 ≤ fc.frameType.bits.toNat then 0x06
      else if fc.dstAddrMode = .reserved ∨ fc.srcAddrMode = .reserved then 0x04
      else if fc.securityEnabled = true ∨ fc.iePresent = true then 0x03
      else if 127 < hdrLen fc (fcPresence fc) + s.fd.plen.toNat + 2 then 0x02
      else if (fc.frameVersion = .v00 ∨ fc.frameVersion = .v01) ∧ (fc.frameType = .data ∨ fc.frameType = .command) ∧
        fc.dstAddrMode = .none ∧ fc.srcAddrMode = .none then 0x04
      else 0x00

/-! ### UNPACK -/

/-- 44_facades.md R201, 42_serializer.md R155 to R163, 30_encoding.md R88, R93: UNPACK of a frame that passes every test
completes with SUCCESS; each FD field is the received one, read at its offset of the layout, or 0 when absent; an inferred
PAN ID is the other one's received value; STATUS reports presence and inference; nothing else changes. -/
def Obligations.UnpackSucceeds : Prop :=
  ∀ s : State, s.inValid = true → s.fdValid = true → 2 ≤ s.inLen.toNat → s.inLen.toNat ≤ 128 →
    acceptedFc (wireFc s.inBuf) →
    hdrLen (wireFc s.inBuf) (fcPresence (wireFc s.inBuf)) + 2 ≤ s.inLen.toNat →
    bothNone (wireFc s.inBuf) = false →
    crc16 standardCrc (s.inBuf.readBytes 0 (s.inLen.toNat - 2)) = leValue 16 (s.inBuf.readBytes (s.inLen.toNat - 2) 2) →
    let fc := wireFc s.inBuf
    let p := fcPresence fc
    let r := receivedFd s.inBuf s.inLen.toNat fc p
    exec .unpack s = .next { s with
      result := 0x00
      status := BitVec.ofBool (infersSpan fc) ++ BitVec.ofBool (infersDpan fc) ++ BitVec.ofBool p.span
        ++ BitVec.ofBool p.dpan
      fd := { r with
        dpan := if infersDpan fc then r.span else r.dpan
        span := if infersSpan fc then r.dpan else r.span } }

/-- 42_serializer.md R164: after a successful UNPACK the PRESENT bits are the resolver's output; a PAN ID register holds
the received value when its PRESENT bit is 1, the other PAN ID's value when its INFERRED bit is 1, and 0 otherwise;
PRESENT and INFERRED of one PAN ID are never both 1; the INFERRED bits are those R160 and R162 set. -/
def Obligations.UnpackStatusLaws : Prop :=
  ∀ (s : State) t, exec .unpack s = .next t → t.result = 0x00 →
    let fc := wireFc s.inBuf
    let p := fcPresence fc
    t.dpanPresent = p.dpan ∧ t.spanPresent = p.span ∧
    (t.dpanInferred = true ↔ (fc.frameVersion = .v00 ∨ fc.frameVersion = .v01) ∧
      (fc.frameType = .data ∨ fc.frameType = .command) ∧ fc.dstAddrMode = .none) ∧
    (t.spanInferred = true ↔ (fc.frameVersion = .v00 ∨ fc.frameVersion = .v01) ∧
      ((fc.frameType = .data ∨ fc.frameType = .command) ∧ fc.srcAddrMode = .none ∨
        fc.dstAddrMode ≠ .none ∧ fc.srcAddrMode ≠ .none ∧ fc.panIdCompression = true)) ∧
    (t.dpanPresent = true → t.fd.dpan = leValue 16 [s.inBuf.read (dpanAt fc), s.inBuf.read (dpanAt fc + 1)]) ∧
    (t.spanPresent = true → t.fd.span = leValue 16 [s.inBuf.read (spanAt fc p), s.inBuf.read (spanAt fc p + 1)]) ∧
    (t.dpanInferred = true → t.fd.dpan = t.fd.span) ∧ (t.spanInferred = true → t.fd.span = t.fd.dpan) ∧
    (t.dpanPresent = false → t.dpanInferred = false → t.fd.dpan = 0) ∧
    (t.spanPresent = false → t.spanInferred = false → t.fd.span = 0) ∧
    ¬(t.dpanPresent = true ∧ t.dpanInferred = true) ∧ ¬(t.spanPresent = true ∧ t.spanInferred = true)

/-- 10_state.md R33, R38, R44, 42_serializer.md R156: after a successful UNPACK, FD_PLEN is 0 to 124, and 124 only with SNS
= 1 and both modes none; the payload bytes are those of the frame that lie between the header and the FCS, and FD_PAYLOAD
is 0x00 past them; FD_FCS is the computed CRC. -/
def Obligations.UnpackPayloadAndFcs : Prop :=
  ∀ (s : State) t, exec .unpack s = .next t → t.result = 0x00 →
    t.fd.plen.toNat ≤ 124 ∧
    (t.fd.plen.toNat = 124 → t.fd.fc.seqNumSuppressed = true ∧ t.fd.fc.dstAddrMode = .none ∧
      t.fd.fc.srcAddrMode = .none) ∧
    hdrLen t.fd.fc (fcPresence t.fd.fc) + t.fd.plen.toNat + 2 = s.inLen.toNat ∧
    (∀ a, t.fd.payload.read a =
      if a < t.fd.plen.toNat then s.inBuf.read (hdrLen t.fd.fc (fcPresence t.fd.fc) + a) else 0x00) ∧
    t.fd.fcs = crc16 standardCrc (s.inBuf.readBytes 0 (s.inLen.toNat - 2))

/-- 30_encoding.md R92: two received frames that differ in frame-control bit 7 and in their FCS only: UNPACK ends with one
code for both, unless the two codes are SUCCESS and FCS_MISMATCH; and where both succeed, STATUS and the FD are equal, the
FCS apart. FcEncode writes bit 7 as 0, a frame PACK made has it 0, and FD_FC reads it as 0. -/
def Obligations.UnpackIgnoresBitSeven : Prop :=
  (∀ s s' t t' : State, s'.ctrl = s.ctrl → s'.inLen = s.inLen →
    s'.inBuf.read 0 = s.inBuf.read 0 ^^^ 0x80 → s'.inBuf.read 1 = s.inBuf.read 1 →
    (∀ a, 2 ≤ a → a < s.inLen.toNat - 2 → s'.inBuf.read a = s.inBuf.read a) →
    exec .unpack s = .next t → exec .unpack s' = .next t' →
    (t'.result = t.result ∨ (t.result = 0x00 ∨ t.result = 0x07) ∧ (t'.result = 0x00 ∨ t'.result = 0x07)) ∧
    (t.result = 0x00 → t'.result = 0x00 → t'.status = t.status ∧ t'.fd = { t.fd with fcs := t'.fd.fcs })) ∧
  (∀ fc, (fcEncode fc).getLsbD 7 = false) ∧
  (∀ (s : State) t, exec .pack s = .next t → t.result = 0x00 → (t.outBuf.read 0).getLsbD 7 = false) ∧
  ∀ s : State, ∃ b : Byte, s.window 0x008 = some b ∧ b.getLsbD 7 = false

/-- 20_memory.md R65, 44_facades.md R216: UNPACK's outcome is a function of CTRL.IN_VALID, CTRL.FD_VALID, IN_LEN and the
first IN_LEN bytes of IN_BUF; after PARAMETER_ERROR the FD and STATUS are as before. -/
def Obligations.UnpackReadsOnlyItsOperands : Prop :=
  ∀ s s' t t' : State, s'.inValid = s.inValid → s'.fdValid = s.fdValid → s'.inLen = s.inLen →
    (∀ a, a < s.inLen.toNat → s'.inBuf.read a = s.inBuf.read a) →
    exec .unpack s = .next t → exec .unpack s' = .next t' →
    t'.result = t.result ∧
      if t.result = 0x01 then t.fd = s.fd ∧ t.status = s.status ∧ t'.fd = s'.fd ∧ t'.status = s'.status
      else t'.fd = t.fd ∧ t'.status = t.status

/-- 10_state.md R47, 44_facades.md R216: two UNPACKs of the same IN_BUF, IN_LEN and CTRL leave the same state. -/
def Obligations.UnpackIsIdempotent : Prop :=
  ∀ (s : State) t, exec .unpack s = .next t → exec .unpack t = .next t

/-- 43_fcs.md R186 item 2, 95_test_vectors.md V-U24: flipping one payload bit of a frame that UNPACK accepts makes UNPACK
report FCS_MISMATCH, with the FD and STATUS zeroed. -/
def Obligations.UnpackDetectsPayloadBitFlip : Prop :=
  ∀ (s s' t : State) (a j : Nat), exec .unpack s = .next t → t.result = 0x00 →
    s.inLen.toNat - 2 - t.fd.plen.toNat ≤ a → a < s.inLen.toNat - 2 → j < 8 →
    s'.ctrl = s.ctrl → s'.inLen = s.inLen → (∀ b, b ≠ a → s'.inBuf.read b = s.inBuf.read b) →
    s'.inBuf.read a = s.inBuf.read a ^^^ (1#8 <<< j) →
    exec .unpack s' = .next { s' with result := 0x07, status := 0, fd := FrameDesc.zero }

/-! ### PACK -/

/-- 44_facades.md R211, 42_serializer.md R158, 43_fcs.md R184, 30_encoding.md R88: PACK of a frame description that passes
every test completes with SUCCESS; OUT_BUF holds the fields in order, the payload and the CRC of all of them,
little-endian, and 0x00 after them; OUT_LEN is the frame's length; STATUS reports presence; nothing else changes. -/
def Obligations.PackSucceeds : Prop :=
  ∀ s : State, s.fdValid = true → s.outValid = true → acceptedFc s.fd.fc → bothNone s.fd.fc = false →
    hdrLen s.fd.fc (fcPresence s.fd.fc) + s.fd.plen.toNat + 2 ≤ 127 →
    let p := fcPresence s.fd.fc
    let frame := frameBytes standardCrc s.fd p
    frame.length = hdrLen s.fd.fc p + s.fd.plen.toNat + 2 ∧
    ∃ buf, exec .pack s = .next { s with
        result := 0x00
        status := 0#1 ++ 0#1 ++ BitVec.ofBool p.span ++ BitVec.ofBool p.dpan
        outLen := BitVec.ofNat 8 frame.length
        outBuf := buf } ∧
      ∀ a, buf.read a = frame.getD a 0x00

/-- 10_state.md R32 with 30_encoding.md R89 and row 2 of 41_resolver.md R134: OUT_LEN is written only by PACK; after a
successful PACK it is the final length, 4 to 127, and it is 4 exactly with SNS = 1, both modes none, FD_PLEN = 0 and no PAN
ID present. R32's own words give no PAN-ID condition: that version 0b10 with both modes none and compression is 2 longer
follows R89 (log entry 14). After a failure other than PARAMETER_ERROR it is 0; host writes are ignored; after reset it
is 0. -/
def Obligations.OutLenBounds : Prop :=
  (∀ (i : Instr) (s : State) t, i ≠ .pack → exec i s = .next t → t.outLen = s.outLen) ∧
  (∀ (s : State) t, exec .pack s = .next t → t.result = 0x00 →
    4 ≤ t.outLen.toNat ∧ t.outLen.toNat ≤ 127 ∧
    t.outLen.toNat = hdrLen s.fd.fc (fcPresence s.fd.fc) + s.fd.plen.toNat + 2 ∧
    (t.outLen.toNat = 4 ↔ s.fd.fc.seqNumSuppressed = true ∧ s.fd.fc.dstAddrMode = .none ∧
      s.fd.fc.srcAddrMode = .none ∧ s.fd.plen = 0 ∧ fcPresence s.fd.fc = ⟨false, false⟩)) ∧
  (∀ (s : State) t, exec .pack s = .next t → t.result ≠ 0x00 → t.result ≠ 0x01 → t.outLen = 0) ∧
  (∀ (s : State) v, hostWrite 0x005 v s = .next s) ∧ State.reset.outLen = 0

/-- 20_memory.md R65, 44_facades.md R210, R216: PACK's outcome is a function of CTRL.FD_VALID, CTRL.OUT_VALID and the FD,
less FD_FCS and the payload bytes at or beyond FD_PLEN. -/
def Obligations.PackReadsOnlyItsOperands : Prop :=
  ∀ s s' t t' : State, s'.fdValid = s.fdValid → s'.outValid = s.outValid →
    s'.fd = { s.fd with fcs := s'.fd.fcs, payload := s'.fd.payload } →
    (∀ a, a < s.fd.plen.toNat → s'.fd.payload.read a = s.fd.payload.read a) →
    exec .pack s = .next t → exec .pack s' = .next t' →
    t'.result = t.result ∧
      (t.result ≠ 0x01 → t'.outBuf = t.outBuf ∧ t'.outLen = t.outLen ∧ t'.status = t.status)

/-- 44_facades.md R215: the round trip. A successful PACK's bytes, copied to IN_BUF with IN_LEN and the valid bits set,
UNPACK successfully to the same fields: those on the wire come back as they were, an absent PAN ID as the post-step infers
it or as 0, a suppressed sequence number and an absent address as 0; FD_FCS is the CRC PACK appended, and STATUS bits 1:0
are PACK's. -/
def Obligations.PackThenUnpackRoundTrip : Prop :=
  ∀ s t u : State, exec .pack s = .next t → t.result = 0x00 →
    u.inLen = t.outLen → (∀ a, a < t.outLen.toNat → u.inBuf.read a = t.outBuf.read a) →
    u.inValid = true → u.fdValid = true →
    ∃ v, exec .unpack u = .next v ∧ v.result = 0x00 ∧
      v.fd.fc = s.fd.fc ∧ v.fd.plen = s.fd.plen ∧
      (∀ a, a < s.fd.plen.toNat → v.fd.payload.read a = s.fd.payload.read a) ∧
      v.fd.seq = (if s.fd.fc.seqNumSuppressed then 0 else s.fd.seq) ∧
      v.fd.daddr = (match s.fd.fc.dstAddrMode with
        | .short => (s.fd.daddr.setWidth 16).setWidth 64
        | .extended => s.fd.daddr
        | .none => 0
        | .reserved => 0) ∧
      v.fd.saddr = (match s.fd.fc.srcAddrMode with
        | .short => (s.fd.saddr.setWidth 16).setWidth 64
        | .extended => s.fd.saddr
        | .none => 0
        | .reserved => 0) ∧
      v.fd.dpan = (if t.dpanPresent then s.fd.dpan else if v.dpanInferred then s.fd.span else 0) ∧
      v.fd.span = (if t.spanPresent then s.fd.span else if v.spanInferred then s.fd.dpan else 0) ∧
      v.fd.fcs = crc16 standardCrc (t.outBuf.readBytes 0 (t.outLen.toNat - 2)) ∧
      v.dpanPresent = t.dpanPresent ∧ v.spanPresent = t.spanPresent

/-! ### Frames and the invariant -/

/-- 44_facades.md R200, R210, R220, 41_resolver.md R136, 43_fcs.md R185: what each command leaves unchanged, every byte of
the three buffers included. -/
def Obligations.CommandFrames : Prop :=
  (∀ (s : State) t, exec .unpack s = .next t → t = { s with result := t.result, status := t.status, fd := t.fd } ∧
    ∀ a, t.inBuf.read a = s.inBuf.read a ∧ t.outBuf.read a = s.outBuf.read a) ∧
  (∀ (s : State) t, exec .pack s = .next t →
    t = { s with result := t.result, status := t.status, outLen := t.outLen, outBuf := t.outBuf } ∧
    ∀ a, t.inBuf.read a = s.inBuf.read a ∧ t.fd.payload.read a = s.fd.payload.read a) ∧
  (∀ (s : State) t, exec .resolve s = .next t → t = { s with result := t.result, status := t.status } ∧
    ∀ a, t.inBuf.read a = s.inBuf.read a ∧ t.outBuf.read a = s.outBuf.read a ∧
      t.fd.payload.read a = s.fd.payload.read a) ∧
  (∀ (s : State) t, exec .crc16 s = .next t → t = { s with result := t.result, crcOut := t.crcOut } ∧
    ∀ a, t.inBuf.read a = s.inBuf.read a ∧ t.outBuf.read a = s.outBuf.read a ∧
      t.fd.payload.read a = s.fd.payload.read a) ∧
  ∀ (s : State) t, exec .nop s = .next t → t = s

/-- 30_encoding.md R89: the header of an accepted frame control is 2 to 23 bytes. -/
def Obligations.HeaderLengthBounds : Prop :=
  ∀ fc, acceptedFc fc → 2 ≤ hdrLen fc (fcPresence fc) ∧ hdrLen fc (fcPresence fc) ≤ 23

/-- The invariant holds right after reset. -/
def Obligations.ResetMeetsInvariant : Prop :=
  State.reset.Inv

/-- From every state that meets the invariant, a step that answers a next state keeps it: the buffers stay in canonical
form, RESULT holds a listed code (30_encoding.md R87), STATUS never claims an inferred PAN ID that is on the wire or was
copied from an absent one (42_serializer.md R164), and OUT_BUF with OUT_LEN holds a whole frame with a correct FCS or
nothing at all (60_exceptions.md R243). -/
def Obligations.StepKeepsInvariant : Prop :=
  ∀ (s : State) t, s.Inv → step s = .next t → t.Inv

/-- 10_state.md R29: STATUS. Bits 0 to 3 are the four flags and bits 7:4 read 0; host writes are ignored and it is 0 after
reset. A successful UNPACK, PACK or RESOLVE sets the PRESENT bits to the PAN IDs it found on the wire, the INFERRED bits to
what UNPACK inferred and to 0 in the other two; a failure other than PARAMETER_ERROR leaves 0, and PARAMETER_ERROR leaves
STATUS. CRC16, NOP, reserved codes, other host writes and reads do not change it. -/
def Obligations.StatusRegister : Prop :=
  (∀ s : State, ∃ b : Byte, s.window 0x002 = some b ∧ b.toNat < 16 ∧ b.getLsbD 0 = s.dpanPresent ∧
    b.getLsbD 1 = s.spanPresent ∧ b.getLsbD 2 = s.dpanInferred ∧ b.getLsbD 3 = s.spanInferred) ∧
  (∀ (s : State) v, hostWrite 0x002 v s = .next s) ∧ State.reset.status = 0 ∧
  (∀ (s : State) t, exec .unpack s = .next t → t.result = 0x00 →
    t.dpanPresent = (fcPresence (wireFc s.inBuf)).dpan ∧ t.spanPresent = (fcPresence (wireFc s.inBuf)).span ∧
    t.dpanInferred = infersDpan (wireFc s.inBuf) ∧ t.spanInferred = infersSpan (wireFc s.inBuf)) ∧
  (∀ (i : Instr) (s : State) t, i = .pack ∨ i = .resolve → exec i s = .next t → t.result = 0x00 →
    t.dpanPresent = (fcPresence s.fd.fc).dpan ∧ t.spanPresent = (fcPresence s.fd.fc).span ∧
    t.dpanInferred = false ∧ t.spanInferred = false) ∧
  (∀ (i : Instr) (s : State) t, i = .unpack ∨ i = .pack ∨ i = .resolve → exec i s = .next t → t.result ≠ 0x00 →
    t.status = if t.result = 0x01 then s.status else 0) ∧
  (∀ (i : Instr) (s : State) t, i = .crc16 ∨ i = .nop → exec i s = .next t → t.status = s.status) ∧
  (∀ (s : State) (c : Byte) t, 5 ≤ c.toNat → hostWrite 0x000 c s = .next t → t.status = s.status) ∧
  (∀ (s : State) off v t, off ≠ 0x000 → hostWrite off v s = .next t → t.status = s.status) ∧
  ∀ (s : State) off t, hostRead off s = .next t → t.status = s.status
end

