-- ==== Sys2Proof/Laws/Bytes.lean ====
section
/-! SUPPORT. The laws of byte order: splitting a value into bytes and putting it together again (20_memory.md R60, R61). -/

namespace Sys2Proof

theorem getLsbD_byteAt {w : Nat} (v : BitVec w) (i j : Nat) :
    (byteAt v i).getLsbD j = (decide (j < 8) && v.getLsbD (8 * i + j)) := by
  simp [byteAt]

@[simp] theorem bytesLE_length {w : Nat} (n : Nat) (v : BitVec w) : (bytesLE n v).length = n := by simp [bytesLE]

theorem getElem_bytesLE {w : Nat} (n : Nat) (v : BitVec w) (i : Nat) (h : i < (bytesLE n v).length) :
    (bytesLE n v)[i] = byteAt v i := by
  simp [bytesLE]

/-- LE16 of 00_scope.md R10, as it is written there. -/
theorem leValue_pair (w : Nat) (b c : Byte) : leValue w [b, c] = b.setWidth w ||| (c.setWidth w <<< 8) := by
  simp [leValue]

/-- One byte is its own value (42_serializer.md R151). -/
theorem leValue_byte (b : Byte) : leValue 8 [b] = b := by
  simp [leValue]

/-- Bit `k` of an assembled value is bit `k % 8` of byte `k / 8` (20_memory.md R61). -/
theorem getLsbD_leValue {w : Nat} (bs : List Byte) (k : Nat) :
    (leValue w bs).getLsbD k = (decide (k < w) && (bs.getD (k / 8) 0).getLsbD (k % 8)) := by
  induction bs generalizing k with
  | nil => simp [leValue]
  | cons b bs ih =>
    rw [leValue, BitVec.getLsbD_or, BitVec.getLsbD_setWidth, BitVec.getLsbD_shiftLeft, ih]
    by_cases h : k < 8
    · rw [Nat.div_eq_of_lt h, Nat.mod_eq_of_lt h]
      simp [h]
    · have hk : b.getLsbD k = false := BitVec.getLsbD_of_ge b k (by omega)
      obtain ⟨m, rfl⟩ : ∃ m, k = m + 8 := ⟨k - 8, by omega⟩
      rw [hk, Nat.add_sub_cancel, show (m + 8) / 8 = m / 8 + 1 by omega, show (m + 8) % 8 = m % 8 by omega]
      by_cases hw : m + 8 < w
      · simp [hw, show m < w by omega]
      · simp [hw]

/-- Putting the bytes of a value together again. -/
theorem leValue_bytesLE {w : Nat} (n : Nat) (v : BitVec w) (h : w ≤ 8 * n) : leValue w (bytesLE n v) = v := by
  apply BitVec.eq_of_getLsbD_eq
  intro k hk
  have hn : k / 8 < (bytesLE n v).length := by simp; omega
  rw [getLsbD_leValue, List.getD_eq_getElem _ _ hn, getElem_bytesLE, getLsbD_byteAt,
    show 8 * (k / 8) + k % 8 = k by omega]
  simp [hk, Nat.mod_lt]

/-- Splitting a value put together from bytes. -/
theorem bytesLE_leValue {w : Nat} (bs : List Byte) (h : 8 * bs.length ≤ w) : bytesLE bs.length (leValue w bs) = bs := by
  apply List.ext_getElem
  · simp
  · intro i h1 h2
    rw [getElem_bytesLE]
    apply BitVec.eq_of_getLsbD_eq
    intro j hj
    rw [getLsbD_byteAt, getLsbD_leValue, show (8 * i + j) / 8 = i by omega, show (8 * i + j) % 8 = j by omega,
      List.getD_eq_getElem _ _ h2]
    simp [hj, show 8 * i + j < w by omega]

/-- Widening an assembled value adds nothing (00_scope.md R9, 42_serializer.md R153). -/
theorem setWidth_leValue {w v : Nat} (bs : List Byte) (h : 8 * bs.length ≤ w) :
    (leValue w bs).setWidth v = leValue v bs := by
  apply BitVec.eq_of_getLsbD_eq
  intro k hk
  rw [BitVec.getLsbD_setWidth, getLsbD_leValue, getLsbD_leValue]
  by_cases hw : k < w
  · simp [hw, hk]
  · simp [hw, List.getElem?_eq_none (show bs.length ≤ k / 8 by omega)]

/-- The byte a write put there, and the other bytes as before (10_state.md R46). -/
theorem byteAt_setByteAt {w : Nat} (v : BitVec w) (b : Byte) {i j : Nat} (hi : 8 * i + 8 ≤ w) (hj : 8 * j + 8 ≤ w) :
    byteAt (setByteAt v i b) j = if j = i then b else byteAt v j := by
  apply BitVec.eq_of_getLsbD_eq
  intro k hk
  rw [getLsbD_byteAt, setByteAt]
  simp only [BitVec.getLsbD_or, BitVec.getLsbD_and, BitVec.getLsbD_not, BitVec.getLsbD_shiftLeft,
    BitVec.getLsbD_setWidth, hk, decide_true, Bool.true_and]
  have hw : 8 * j + k < w := by omega
  by_cases hij : j = i
  · subst hij
    rw [if_pos rfl, show 8 * j + k - 8 * j = k by omega]
    have hff : (0xFF#8).getLsbD k = true := by
      rw [show 0xFF#8 = BitVec.allOnes 8 from rfl, BitVec.getLsbD_allOnes]; simp [hk]
    simp [hw, hff, show k < w by omega]
  · rw [if_neg hij, getLsbD_byteAt]
    rcases Nat.lt_or_gt_of_ne hij with h | h
    · simp [hw, hk, show 8 * j + k < 8 * i by omega]
    · have h8 : 8 ≤ 8 * j + k - 8 * i := by omega
      simp [hw, hk, BitVec.getLsbD_of_ge _ _ h8]

/-- The enumerations' numbers and names agree (10_state.md R25). -/
@[simp] theorem FrameType.ofBits_bits (t : FrameType) : FrameType.ofBits t.bits = t := by cases t <;> rfl

@[simp] theorem AddrMode.ofBits_bits (m : AddrMode) : AddrMode.ofBits m.bits = m := by cases m <;> rfl

@[simp] theorem FrameVersion.ofBits_bits (v : FrameVersion) : FrameVersion.ofBits v.bits = v := by cases v <;> rfl

theorem FrameType.bits_ofBits (b : BitVec 3) : (FrameType.ofBits b).bits = b := by revert b; decide

theorem AddrMode.bits_ofBits (b : BitVec 2) : (AddrMode.ofBits b).bits = b := by revert b; decide

theorem FrameVersion.bits_ofBits (b : BitVec 2) : (FrameVersion.ofBits b).bits = b := by revert b; decide

end Sys2Proof
end

