-- ==== Sys2Proof/Laws/Memory.lean ====
section
/-! SUPPORT. The laws of a frame space: reading after writing, and the canonical form. -/

namespace Sys2Proof.Machine

@[simp] theorem Memory.read_nil (a : Nat) : Memory.read [] a = 0 := rfl

theorem Memory.wf_nil : Memory.wf [] := by simp [Memory.wf]

theorem Memory.wf_tail {c : Host.Cell} {m : Memory} (h : Memory.wf (c :: m)) : Memory.wf m :=
  ⟨(List.pairwise_cons.1 h.1).2, fun d hd => h.2 d (List.mem_cons_of_mem _ hd)⟩

/-- Below the first listed address everything is unlisted. -/
theorem Memory.read_below {m : Memory} {a : Nat} (h : ∀ c ∈ m, a < c.1) : m.read a = 0 := by
  induction m with
  | nil => rfl
  | cons c m ih =>
    obtain ⟨k, b⟩ := c
    have hk : a < k := h (k, b) (by simp)
    rw [Memory.read, if_neg (by omega)]
    exact ih fun d hd => h d (List.mem_cons_of_mem _ hd)

/-- Above the last listed address everything is unlisted. -/
theorem Memory.read_above {m : Memory} {a : Nat} (h : ∀ c ∈ m, c.1 < a) : m.read a = 0 := by
  induction m with
  | nil => rfl
  | cons c m ih =>
    obtain ⟨k, b⟩ := c
    have hk : k < a := h (k, b) (by simp)
    rw [Memory.read, if_neg (by omega)]
    exact ih fun d hd => h d (List.mem_cons_of_mem _ hd)

theorem Memory.read_head_below {k : Nat} {b : Byte} {m : Memory} (h : Memory.wf ((k, b) :: m)) {a : Nat} (ha : a ≤ k) :
    m.read a = 0 :=
  Memory.read_below fun c hc => Nat.lt_of_le_of_lt ha ((List.pairwise_cons.1 h.1).1 c hc)

/-- Reading after writing one byte. -/
theorem Memory.read_write {m : Memory} (h : Memory.wf m) (a : Nat) (v : Byte) (x : Nat) :
    (m.write a v).read x = if x = a then v else m.read x := by
  induction m with
  | nil =>
    by_cases hv : v = Memory.unlisted
    · simp [Memory.write, Memory.read, hv]
    · rw [Memory.write, if_neg hv, Memory.read]; rfl
  | cons c m ih =>
    obtain ⟨k, b⟩ := c
    have hbelow {y : Nat} (hy : y ≤ k) : Memory.read m y = 0 := Memory.read_head_below h hy
    unfold Memory.write
    by_cases h1 : a < k
    · by_cases hv : v = Memory.unlisted
      · rw [if_pos h1, if_pos hv]
        by_cases hx : x = a
        · subst hx
          rw [if_pos rfl, hv, Memory.read, if_neg (by omega), hbelow (Nat.le_of_lt h1)]
        · rw [if_neg hx]
      · rw [if_pos h1, if_neg hv, Memory.read]
    · by_cases h2 : a = k
      · subst h2
        by_cases hv : v = Memory.unlisted
        · rw [if_neg h1, if_pos rfl, if_pos hv]
          by_cases hx : x = a
          · subst hx; rw [if_pos rfl, hv, hbelow (Nat.le_refl _)]
          · rw [if_neg hx, Memory.read, if_neg hx]
        · rw [if_neg h1, if_pos rfl, if_neg hv, Memory.read, Memory.read]
          by_cases hx : x = a <;> simp [hx]
      · rw [if_neg h1, if_neg h2, Memory.read, Memory.read, ih (Memory.wf_tail h)]
        by_cases hx : x = k
        · subst hx; rw [if_pos rfl, if_neg (Ne.symm h2), if_pos rfl]
        · rw [if_neg hx, if_neg hx]

/-- The cells of a written space: the written one, or cells there before. -/
theorem Memory.mem_write {m : Memory} {a : Nat} {v : Byte} {c : Host.Cell} (hc : c ∈ m.write a v) :
    (c = (a, v) ∧ v ≠ 0) ∨ c ∈ m := by
  induction m with
  | nil =>
    unfold Memory.write at hc
    by_cases hv : v = Memory.unlisted
    · simp [hv] at hc
    · rw [if_neg hv] at hc
      exact .inl ⟨List.mem_singleton.1 hc, hv⟩
  | cons d m ih =>
    obtain ⟨k, b⟩ := d
    unfold Memory.write at hc
    by_cases h1 : a < k
    · by_cases hv : v = Memory.unlisted
      · rw [if_pos h1, if_pos hv] at hc; exact .inr hc
      · rw [if_pos h1, if_neg hv] at hc
        rcases List.mem_cons.1 hc with rfl | hc
        · exact .inl ⟨rfl, hv⟩
        · exact .inr hc
    · by_cases h2 : a = k
      · by_cases hv : v = Memory.unlisted
        · rw [if_neg h1, if_pos h2, if_pos hv] at hc; exact .inr (List.mem_cons_of_mem _ hc)
        · rw [if_neg h1, if_pos h2, if_neg hv] at hc
          rcases List.mem_cons.1 hc with rfl | hc
          · exact .inl ⟨rfl, hv⟩
          · exact .inr (List.mem_cons_of_mem _ hc)
      · rw [if_neg h1, if_neg h2] at hc
        rcases List.mem_cons.1 hc with rfl | hc
        · exact .inr (List.mem_cons_self ..)
        · exact (ih hc).imp_right (List.mem_cons_of_mem _)

/-- A write inside the frame space keeps the canonical form. -/
theorem Memory.wf_write {m : Memory} (h : Memory.wf m) {a : Nat} (ha : a < bufferSize) (v : Byte) :
    Memory.wf (m.write a v) := by
  refine ⟨?_, fun c hc => ?_⟩
  · induction m with
    | nil =>
      unfold Memory.write
      split
      · exact .nil
      · exact List.pairwise_singleton ..
    | cons d m ih =>
      obtain ⟨k, b⟩ := d
      have hp := List.pairwise_cons.1 h.1
      unfold Memory.write
      by_cases h1 : a < k
      · by_cases hv : v = Memory.unlisted
        · rw [if_pos h1, if_pos hv]; exact h.1
        · rw [if_pos h1, if_neg hv]
          refine List.pairwise_cons.2 ⟨fun c hc => ?_, h.1⟩
          rcases List.mem_cons.1 hc with rfl | hc
          · exact h1
          · exact Nat.lt_trans h1 (hp.1 c hc)
      · by_cases h2 : a = k
        · by_cases hv : v = Memory.unlisted
          · rw [if_neg h1, if_pos h2, if_pos hv]; exact hp.2
          · rw [if_neg h1, if_pos h2, if_neg hv]
            exact List.pairwise_cons.2 ⟨fun c hc => h2 ▸ hp.1 c hc, hp.2⟩
        · rw [if_neg h1, if_neg h2]
          refine List.pairwise_cons.2 ⟨fun c hc => ?_, ih (Memory.wf_tail h)⟩
          rcases Memory.mem_write hc with ⟨rfl, -⟩ | hc
          · show k < a
            omega
          · exact hp.1 c hc
  · rcases Memory.mem_write hc with ⟨rfl, hv⟩ | hc
    · exact ⟨ha, hv⟩
    · exact h.2 c hc

/-- Writes that fit the frame space keep the canonical form. -/
theorem Memory.wf_writeBytes {bs : List Byte} {m : Memory} {a : Nat} (h : Memory.wf m) (ha : a + bs.length ≤ bufferSize) :
    Memory.wf (m.writeBytes a bs) := by
  induction bs generalizing m a with
  | nil => exact h
  | cons b bs ih =>
    rw [List.length_cons] at ha
    exact ih (Memory.wf_write h (by omega) b) (by omega)

/-- Reading after writing a run of bytes that fits the frame space. -/
theorem Memory.read_writeBytes {bs : List Byte} {m : Memory} {a : Nat} (h : Memory.wf m)
    (ha : a + bs.length ≤ bufferSize) (x : Nat) :
    (m.writeBytes a bs).read x = if a ≤ x then bs.getD (x - a) (m.read x) else m.read x := by
  induction bs generalizing m a with
  | nil => simp [Memory.writeBytes]
  | cons b bs ih =>
    rw [List.length_cons] at ha
    rw [Memory.writeBytes, ih (Memory.wf_write h (by omega) b) (by omega), Memory.read_write h]
    rcases Nat.lt_trichotomy x a with h1 | rfl | h1
    · simp [show ¬ a + 1 ≤ x by omega, show ¬ a ≤ x by omega, show x ≠ a by omega]
    · simp
    · obtain ⟨k, rfl⟩ : ∃ k, x = a + 1 + k := ⟨x - (a + 1), by omega⟩
      rw [show a + 1 + k - (a + 1) = k by omega, show a + 1 + k - a = k + 1 by omega]
      simp [show a ≤ a + 1 + k by omega, show a + 1 + k ≠ a by omega]

/-- Equal reads of canonical spaces: equal data. -/
theorem Memory.ext {m m' : Memory} (h : Memory.wf m) (h' : Memory.wf m') (hr : ∀ a, m.read a = m'.read a) : m = m' := by
  induction m generalizing m' with
  | nil =>
    cases m' with
    | nil => rfl
    | cons c m' =>
      obtain ⟨k, b⟩ := c
      have := hr k
      simp only [Memory.read, if_true] at this
      exact absurd this.symm (h'.2 (k, b) (by simp)).2
  | cons c m ih =>
    obtain ⟨k, b⟩ := c
    have hb : b ≠ 0 := (h.2 (k, b) (by simp)).2
    cases m' with
    | nil =>
      have := hr k
      simp only [Memory.read, if_true] at this
      exact absurd this hb
    | cons c' m' =>
      obtain ⟨k', b'⟩ := c'
      have hb' : b' ≠ 0 := (h'.2 (k', b') (by simp)).2
      have hk : k = k' := by
        rcases Nat.lt_trichotomy k k' with hlt | heq | hlt
        · have := hr k
          rw [Memory.read, if_pos rfl, Memory.read, if_neg (by omega), Memory.read_head_below h' (by omega)] at this
          exact absurd this hb
        · exact heq
        · have := hr k'
          rw [Memory.read, if_neg (by omega), Memory.read_head_below h (by omega), Memory.read, if_pos rfl] at this
          exact absurd this.symm hb'
      subst hk
      have hbb : b = b' := by simpa [Memory.read] using hr k
      subst hbb
      rw [ih (Memory.wf_tail h) (Memory.wf_tail h') fun a => ?_]
      by_cases ha : a = k
      · subst ha
        rw [Memory.read_head_below h (Nat.le_refl _), Memory.read_head_below h' (Nat.le_refl _)]
      · have := hr a
        rwa [Memory.read, if_neg ha, Memory.read, if_neg ha] at this

@[simp] theorem Memory.readBytes_length (m : Memory) (a n : Nat) : (m.readBytes a n).length = n := by
  simp [Memory.readBytes]

@[simp] theorem Memory.readBytes_zero (m : Memory) (a : Nat) : m.readBytes a 0 = [] := rfl

theorem Memory.getElem_readBytes (m : Memory) (a n i : Nat) (h : i < (m.readBytes a n).length) :
    (m.readBytes a n)[i] = m.read (a + i) := by
  simp [Memory.readBytes]

/-- MemRead depends on the bytes it reads only. -/
theorem Memory.readBytes_congr {m m' : Memory} {a n : Nat} (h : ∀ i, a ≤ i → i < a + n → m.read i = m'.read i) :
    m.readBytes a n = m'.readBytes a n := by
  apply List.map_congr_left
  intro i hi
  exact h _ (by omega) (by have := List.mem_range.1 hi; omega)

/-- MemRead of two runs end to end. -/
theorem Memory.readBytes_add (m : Memory) (a j k : Nat) :
    m.readBytes a (j + k) = m.readBytes a j ++ m.readBytes (a + j) k := by
  simp [Memory.readBytes, List.range_add, Nat.add_assoc, Function.comp_def]

/-- MemWrite of two runs end to end. -/
theorem Memory.writeBytes_append (m : Memory) (a : Nat) (bs cs : List Byte) :
    m.writeBytes a (bs ++ cs) = (m.writeBytes a bs).writeBytes (a + bs.length) cs := by
  induction bs generalizing m a with
  | nil => rfl
  | cons b bs ih =>
    rw [List.cons_append, Memory.writeBytes, ih, Memory.writeBytes, List.length_cons]
    rw [Nat.add_assoc, Nat.add_comm 1]

/-- MemRead of what MemWrite put into a fresh frame space. -/
theorem Memory.readBytes_writeBytes_nil {bs : List Byte} (h : bs.length ≤ bufferSize) :
    (Memory.writeBytes [] 0 bs).readBytes 0 bs.length = bs := by
  apply List.ext_getElem
  · simp
  · intro i h1 h2
    rw [Memory.getElem_readBytes, Memory.read_writeBytes Memory.wf_nil (by omega)]
    simp [h2]

/-- A byte of what MemWrite put into a fresh frame space: the byte written, or 0x00 past the end. -/
theorem Memory.read_writeBytes_nil {bs : List Byte} (h : bs.length ≤ bufferSize) (x : Nat) :
    (Memory.writeBytes [] 0 bs).read x = bs.getD x 0 := by
  rw [Memory.read_writeBytes Memory.wf_nil (by omega)]
  simp

end Sys2Proof.Machine
end

