-- ==== Sys2Proof/Laws/Cursor.lean ====
section
/-! SUPPORT. What the cursor operations do, said once in closed form: reading the fields of a frame succeeds exactly when
the frame is long enough, and gives the fields of the layout; writing them gives the bytes of the layout. -/

namespace Sys2Proof.Machine

/-! ### Steps that may raise -/

@[simp] theorem raiseIf_bind {α : Type} (c : Prop) [Decidable c] (e : ResultCode) (f : Unit → Except ResultCode α) :
    (raiseIf c e >>= f) = if c then .error e else f () := by
  unfold raiseIf; split <;> rfl

@[simp] theorem ok_bind {α β : Type} (a : α) (f : α → Except ResultCode β) : ((.ok a : Except ResultCode α) >>= f) = f a :=
  rfl

@[simp] theorem pure_bind_except {α β : Type} (a : α) (f : α → Except ResultCode β) :
    ((pure a : Except ResultCode α) >>= f) = f a := rfl

@[simp] theorem error_bind {α β : Type} (e : ResultCode) (f : α → Except ResultCode β) :
    ((.error e : Except ResultCode α) >>= f) = .error e := rfl

@[simp] theorem ite_bind {α β : Type} (c : Prop) [Decidable c] (x y : Except ResultCode α)
    (f : α → Except ResultCode β) : ((if c then x else y) >>= f) = if c then x >>= f else y >>= f := by
  split <;> rfl

/-- A bind that answers, answers at each of its two steps. -/
theorem bind_eq_ok {α β : Type} {x : Except ResultCode α} {f : α → Except ResultCode β} {b : β} :
    (x >>= f) = .ok b ↔ ∃ a, x = .ok a ∧ f a = .ok b := by
  cases x <;> simp

theorem raiseIf_eq_ok {c : Prop} [Decidable c] {e : ResultCode} {u : Unit} : raiseIf c e = .ok u ↔ ¬c := by
  unfold raiseIf; split <;> simp [*]

/-! ### Reading -/

/-- A field of `k` bytes: FRAME_SIZE_ERROR, or the bytes and the cursor after them (42_serializer.md R150). -/
theorem readField_eq (buf : Memory) (n pos k : Nat) :
    readField buf n pos k =
      if n - pos < k then .error .frameSizeError else .ok (buf.readBytes pos k, pos + k) := by
  simp only [readField, need, raiseIf_bind]; rfl

theorem readLE16_eq (buf : Memory) (n pos : Nat) :
    readLE16 buf n pos =
      if n - pos < 2 then .error .frameSizeError else .ok (leValue 16 (buf.readBytes pos 2), pos + 2) := by
  simp only [readLE16, readField_eq, ite_bind]; rfl

theorem readSeq_eq (sup : Bool) (buf : Memory) (n pos : Nat) :
    readSeq sup buf n pos =
      if n - pos < seqLen sup then .error .frameSizeError
      else .ok (if sup then 0 else buf.read pos, pos + seqLen sup) := by
  cases sup
  · have : leValue 8 (buf.readBytes pos 1) = buf.read pos := leValue_byte _
    simp only [readSeq, readU8, readField_eq, ite_bind, ok_bind, this]; rfl
  · simp [readSeq, seqLen]; rfl

theorem readPanId_eq (present : Bool) (buf : Memory) (n pos : Nat) :
    readPanId present buf n pos =
      if n - pos < panIdLen present then .error .frameSizeError
      else .ok (if present then leValue 16 (buf.readBytes pos 2) else 0, pos + panIdLen present) := by
  cases present
  · simp [readPanId, panIdLen]; rfl
  · simp [readPanId, panIdLen, readLE16_eq]

theorem readAddr_eq (buf : Memory) (n pos : Nat) {m : AddrMode} (hm : m ≠ .reserved) :
    readAddr buf n pos m =
      if n - pos < alen m then .error .frameSizeError
      else .ok (leValue 64 (buf.readBytes pos (alen m)), pos + alen m) := by
  cases m with
  | none => simp [readAddr, alen, leValue]; rfl
  | reserved => exact absurd rfl hm
  | short =>
    have := setWidth_leValue (w := 16) (v := 64) (buf.readBytes pos 2) (by simp)
    simp only [readAddr, alen, readLE16_eq, ite_bind, ok_bind, this]; rfl
  | extended => simp only [readAddr, alen, readField_eq, ite_bind]; rfl

/-- UNPACK step 9 in closed form: FRAME_SIZE_ERROR exactly when the frame is shorter than its header and FCS
(30_encoding.md R89), else the fields of the layout. -/
theorem readFields_eq (buf : Memory) (n : Nat) (fc : FrameControl) (p : Presence) (hn : 2 ≤ n)
    (hd : fc.dstAddrMode ≠ .reserved) (hs : fc.srcAddrMode ≠ .reserved) :
    readFields buf n fc p =
      if n < hdrLen fc p + 2 then .error .frameSizeError else .ok (receivedFd buf n fc p) := by
  simp only [readFields, readSeq_eq, readPanId_eq, readAddr_eq _ _ _ hd, readAddr_eq _ _ _ hs, ite_bind, error_bind,
    ok_bind, need, raiseIf_bind, readLE16_eq, receivedFd, hdrLen, dpanAt, daddrAt, spanAt, saddrAt]
  by_cases h0 : n - 2 < seqLen fc.seqNumSuppressed
  · rw [if_pos h0]; exact (if_pos (by omega)).symm
  rw [if_neg h0]
  by_cases h1 : n - (2 + seqLen fc.seqNumSuppressed) < panIdLen p.dpan
  · rw [if_pos h1]; exact (if_pos (by omega)).symm
  rw [if_neg h1]
  by_cases h2 : n - (2 + seqLen fc.seqNumSuppressed + panIdLen p.dpan) < alen fc.dstAddrMode
  · rw [if_pos h2]; exact (if_pos (by omega)).symm
  rw [if_neg h2]
  by_cases h3 : n - (2 + seqLen fc.seqNumSuppressed + panIdLen p.dpan + alen fc.dstAddrMode) < panIdLen p.span
  · rw [if_pos h3]; exact (if_pos (by omega)).symm
  rw [if_neg h3]
  by_cases h4 : n - (2 + seqLen fc.seqNumSuppressed + panIdLen p.dpan + alen fc.dstAddrMode + panIdLen p.span) < alen fc.srcAddrMode
  · rw [if_pos h4]; exact (if_pos (by omega)).symm
  rw [if_neg h4]
  by_cases h5 : n - (2 + seqLen fc.seqNumSuppressed + panIdLen p.dpan + alen fc.dstAddrMode + panIdLen p.span + alen fc.srcAddrMode) < 2
  · rw [if_pos h5]; exact (if_pos (by omega)).symm
  rw [if_neg h5]
  have hlast : ∀ x : Nat, ¬ n - x < 2 → x + (n - x - 2) = n - 2 := by omega
  rw [hlast _ h5, if_neg (show ¬ n - (n - 2) < 2 by omega)]
  exact (if_neg (by omega)).symm

/-! ### Writing -/

/-- An output built so far: `bytes` from the start of a fresh space, the cursor after them. -/
def Output.holds (o : Output) (bytes : List Byte) : Prop := o = ⟨Memory.writeBytes [] 0 bytes, bytes.length⟩

theorem Output.holds_emit {o : Output} {bytes : List Byte} (h : o.holds bytes) (s : List Byte) :
    (o.emit s).holds (bytes ++ s) := by
  subst h
  simp [Output.holds, Output.emit, Memory.writeBytes_append]

theorem Output.holds_ite {c : Bool} {o o' : Output} {x y : List Byte} (h : o.holds x) (h' : o'.holds y) :
    (if c then o else o').holds (if c then x else y) := by
  cases c
  · exact h'
  · exact h

/-- PACK step P11 in closed form: the body of the layout (30_encoding.md R88), and the cursor after it. -/
theorem writeFields_holds (fd : FrameDesc) (p : Presence) : (writeFields fd p).holds (bodyBytes fd p) := by
  have hite {c : Bool} {x y : List Byte} : (if c then x ++ y else x) = x ++ if c then y else [] := by
    cases c <;> simp
  have hite' {c : Bool} {x y : List Byte} : (if c then x else x ++ y) = x ++ if c then [] else y := by
    cases c <;> simp
  have h0 : (⟨[], 0⟩ : Output).holds [] := rfl
  have h1 := Output.holds_emit h0 (bytesLE 2 (fcEncode fd.fc))
  have h2 := Output.holds_ite (c := fd.fc.seqNumSuppressed) h1 (Output.holds_emit h1 [fd.seq])
  have h3 := Output.holds_ite (c := p.dpan) (Output.holds_emit h2 (bytesLE 2 fd.dpan)) h2
  have h4 := Output.holds_emit h3 (addrBytes fd.fc.dstAddrMode fd.daddr)
  have h5 := Output.holds_ite (c := p.span) (Output.holds_emit h4 (bytesLE 2 fd.span)) h4
  have h6 := Output.holds_emit h5 (addrBytes fd.fc.srcAddrMode fd.saddr)
  have h7 := Output.holds_emit h6 (fd.payload.readBytes 0 fd.plen.toNat)
  simp only [hite, hite', List.nil_append] at h7
  exact h7

theorem addrBytes_length {m : AddrMode} (hm : m ≠ .reserved) (v : Addr) : (addrBytes m v).length = alen m := by
  cases m <;> simp_all [addrBytes, alen]

/-- The header has the length of 30_encoding.md R89. -/
theorem headerBytes_length (fd : FrameDesc) (p : Presence) (hd : fd.fc.dstAddrMode ≠ .reserved)
    (hs : fd.fc.srcAddrMode ≠ .reserved) : (headerBytes fd p).length = hdrLen fd.fc p := by
  simp only [headerBytes, List.length_append, addrBytes_length hd, addrBytes_length hs, hdrLen, bytesLE_length, seqLen, panIdLen]
  split <;> split <;> split <;> simp

/-- The body is the header and the payload. -/
theorem bodyBytes_length (fd : FrameDesc) (p : Presence) (hd : fd.fc.dstAddrMode ≠ .reserved)
    (hs : fd.fc.srcAddrMode ≠ .reserved) : (bodyBytes fd p).length = hdrLen fd.fc p + fd.plen.toNat := by
  simp [bodyBytes, headerBytes_length fd p hd hs]

end Sys2Proof.Machine
end

