-- ==== Sys2Proof/Laws/State.lean ====
section
/-! SUPPORT. One lemma per field per update of State, and what raising a code leaves. -/

namespace Sys2Proof.Machine

variable (s : State)

@[simp] theorem State.setCmd_cmd (c : Byte) : (s.setCmd c).cmd = c := rfl
@[simp] theorem State.setCmd_result (c : Byte) : (s.setCmd c).result = s.result := rfl
@[simp] theorem State.setCmd_status (c : Byte) : (s.setCmd c).status = s.status := rfl
@[simp] theorem State.setCmd_ctrl (c : Byte) : (s.setCmd c).ctrl = s.ctrl := rfl
@[simp] theorem State.setCmd_inLen (c : Byte) : (s.setCmd c).inLen = s.inLen := rfl
@[simp] theorem State.setCmd_outLen (c : Byte) : (s.setCmd c).outLen = s.outLen := rfl
@[simp] theorem State.setCmd_crcOut (c : Byte) : (s.setCmd c).crcOut = s.crcOut := rfl
@[simp] theorem State.setCmd_fd (c : Byte) : (s.setCmd c).fd = s.fd := rfl
@[simp] theorem State.setCmd_inBuf (c : Byte) : (s.setCmd c).inBuf = s.inBuf := rfl
@[simp] theorem State.setCmd_outBuf (c : Byte) : (s.setCmd c).outBuf = s.outBuf := rfl
@[simp] theorem State.setCmd_host (c : Byte) : (s.setCmd c).host = s.host := rfl
@[simp] theorem State.setCmd_readData (c : Byte) : (s.setCmd c).readData = s.readData := rfl

@[simp] theorem State.setResult_cmd (c : ResultCode) : (s.setResult c).cmd = s.cmd := rfl
@[simp] theorem State.setResult_result (c : ResultCode) : (s.setResult c).result = c.code := rfl
@[simp] theorem State.setResult_status (c : ResultCode) : (s.setResult c).status = s.status := rfl
@[simp] theorem State.setResult_ctrl (c : ResultCode) : (s.setResult c).ctrl = s.ctrl := rfl
@[simp] theorem State.setResult_inLen (c : ResultCode) : (s.setResult c).inLen = s.inLen := rfl
@[simp] theorem State.setResult_outLen (c : ResultCode) : (s.setResult c).outLen = s.outLen := rfl
@[simp] theorem State.setResult_crcOut (c : ResultCode) : (s.setResult c).crcOut = s.crcOut := rfl
@[simp] theorem State.setResult_fd (c : ResultCode) : (s.setResult c).fd = s.fd := rfl
@[simp] theorem State.setResult_inBuf (c : ResultCode) : (s.setResult c).inBuf = s.inBuf := rfl
@[simp] theorem State.setResult_outBuf (c : ResultCode) : (s.setResult c).outBuf = s.outBuf := rfl
@[simp] theorem State.setResult_host (c : ResultCode) : (s.setResult c).host = s.host := rfl
@[simp] theorem State.setResult_readData (c : ResultCode) : (s.setResult c).readData = s.readData := rfl

@[simp] theorem State.setStatus_cmd (v : BitVec 4) : (s.setStatus v).cmd = s.cmd := rfl
@[simp] theorem State.setStatus_result (v : BitVec 4) : (s.setStatus v).result = s.result := rfl
@[simp] theorem State.setStatus_status (v : BitVec 4) : (s.setStatus v).status = v := rfl
@[simp] theorem State.setStatus_ctrl (v : BitVec 4) : (s.setStatus v).ctrl = s.ctrl := rfl
@[simp] theorem State.setStatus_inLen (v : BitVec 4) : (s.setStatus v).inLen = s.inLen := rfl
@[simp] theorem State.setStatus_outLen (v : BitVec 4) : (s.setStatus v).outLen = s.outLen := rfl
@[simp] theorem State.setStatus_crcOut (v : BitVec 4) : (s.setStatus v).crcOut = s.crcOut := rfl
@[simp] theorem State.setStatus_fd (v : BitVec 4) : (s.setStatus v).fd = s.fd := rfl
@[simp] theorem State.setStatus_inBuf (v : BitVec 4) : (s.setStatus v).inBuf = s.inBuf := rfl
@[simp] theorem State.setStatus_outBuf (v : BitVec 4) : (s.setStatus v).outBuf = s.outBuf := rfl
@[simp] theorem State.setStatus_host (v : BitVec 4) : (s.setStatus v).host = s.host := rfl
@[simp] theorem State.setStatus_readData (v : BitVec 4) : (s.setStatus v).readData = s.readData := rfl

@[simp] theorem State.setFd_cmd (f : FrameDesc) : (s.setFd f).cmd = s.cmd := rfl
@[simp] theorem State.setFd_result (f : FrameDesc) : (s.setFd f).result = s.result := rfl
@[simp] theorem State.setFd_status (f : FrameDesc) : (s.setFd f).status = s.status := rfl
@[simp] theorem State.setFd_ctrl (f : FrameDesc) : (s.setFd f).ctrl = s.ctrl := rfl
@[simp] theorem State.setFd_inLen (f : FrameDesc) : (s.setFd f).inLen = s.inLen := rfl
@[simp] theorem State.setFd_outLen (f : FrameDesc) : (s.setFd f).outLen = s.outLen := rfl
@[simp] theorem State.setFd_crcOut (f : FrameDesc) : (s.setFd f).crcOut = s.crcOut := rfl
@[simp] theorem State.setFd_fd (f : FrameDesc) : (s.setFd f).fd = f := rfl
@[simp] theorem State.setFd_inBuf (f : FrameDesc) : (s.setFd f).inBuf = s.inBuf := rfl
@[simp] theorem State.setFd_outBuf (f : FrameDesc) : (s.setFd f).outBuf = s.outBuf := rfl
@[simp] theorem State.setFd_host (f : FrameDesc) : (s.setFd f).host = s.host := rfl
@[simp] theorem State.setFd_readData (f : FrameDesc) : (s.setFd f).readData = s.readData := rfl

@[simp] theorem State.setOut_cmd (l : Byte) (b : Memory) : (s.setOut l b).cmd = s.cmd := rfl
@[simp] theorem State.setOut_result (l : Byte) (b : Memory) : (s.setOut l b).result = s.result := rfl
@[simp] theorem State.setOut_status (l : Byte) (b : Memory) : (s.setOut l b).status = s.status := rfl
@[simp] theorem State.setOut_ctrl (l : Byte) (b : Memory) : (s.setOut l b).ctrl = s.ctrl := rfl
@[simp] theorem State.setOut_inLen (l : Byte) (b : Memory) : (s.setOut l b).inLen = s.inLen := rfl
@[simp] theorem State.setOut_outLen (l : Byte) (b : Memory) : (s.setOut l b).outLen = l := rfl
@[simp] theorem State.setOut_crcOut (l : Byte) (b : Memory) : (s.setOut l b).crcOut = s.crcOut := rfl
@[simp] theorem State.setOut_fd (l : Byte) (b : Memory) : (s.setOut l b).fd = s.fd := rfl
@[simp] theorem State.setOut_inBuf (l : Byte) (b : Memory) : (s.setOut l b).inBuf = s.inBuf := rfl
@[simp] theorem State.setOut_outBuf (l : Byte) (b : Memory) : (s.setOut l b).outBuf = b := rfl
@[simp] theorem State.setOut_host (l : Byte) (b : Memory) : (s.setOut l b).host = s.host := rfl
@[simp] theorem State.setOut_readData (l : Byte) (b : Memory) : (s.setOut l b).readData = s.readData := rfl

@[simp] theorem State.setCrcOut_cmd (v : Half) : (s.setCrcOut v).cmd = s.cmd := rfl
@[simp] theorem State.setCrcOut_result (v : Half) : (s.setCrcOut v).result = s.result := rfl
@[simp] theorem State.setCrcOut_status (v : Half) : (s.setCrcOut v).status = s.status := rfl
@[simp] theorem State.setCrcOut_ctrl (v : Half) : (s.setCrcOut v).ctrl = s.ctrl := rfl
@[simp] theorem State.setCrcOut_inLen (v : Half) : (s.setCrcOut v).inLen = s.inLen := rfl
@[simp] theorem State.setCrcOut_outLen (v : Half) : (s.setCrcOut v).outLen = s.outLen := rfl
@[simp] theorem State.setCrcOut_crcOut (v : Half) : (s.setCrcOut v).crcOut = v := rfl
@[simp] theorem State.setCrcOut_fd (v : Half) : (s.setCrcOut v).fd = s.fd := rfl
@[simp] theorem State.setCrcOut_inBuf (v : Half) : (s.setCrcOut v).inBuf = s.inBuf := rfl
@[simp] theorem State.setCrcOut_outBuf (v : Half) : (s.setCrcOut v).outBuf = s.outBuf := rfl
@[simp] theorem State.setCrcOut_host (v : Half) : (s.setCrcOut v).host = s.host := rfl
@[simp] theorem State.setCrcOut_readData (v : Half) : (s.setCrcOut v).readData = s.readData := rfl

@[simp] theorem State.setReadData_cmd (v : Byte) : (s.setReadData v).cmd = s.cmd := rfl
@[simp] theorem State.setReadData_result (v : Byte) : (s.setReadData v).result = s.result := rfl
@[simp] theorem State.setReadData_status (v : Byte) : (s.setReadData v).status = s.status := rfl
@[simp] theorem State.setReadData_ctrl (v : Byte) : (s.setReadData v).ctrl = s.ctrl := rfl
@[simp] theorem State.setReadData_inLen (v : Byte) : (s.setReadData v).inLen = s.inLen := rfl
@[simp] theorem State.setReadData_outLen (v : Byte) : (s.setReadData v).outLen = s.outLen := rfl
@[simp] theorem State.setReadData_crcOut (v : Byte) : (s.setReadData v).crcOut = s.crcOut := rfl
@[simp] theorem State.setReadData_fd (v : Byte) : (s.setReadData v).fd = s.fd := rfl
@[simp] theorem State.setReadData_inBuf (v : Byte) : (s.setReadData v).inBuf = s.inBuf := rfl
@[simp] theorem State.setReadData_outBuf (v : Byte) : (s.setReadData v).outBuf = s.outBuf := rfl
@[simp] theorem State.setReadData_host (v : Byte) : (s.setReadData v).host = s.host := rfl
@[simp] theorem State.setReadData_readData (v : Byte) : (s.setReadData v).readData = v := rfl

@[simp] theorem State.setHost_cmd (es : List HostEvent) : (s.setHost es).cmd = s.cmd := rfl
@[simp] theorem State.setHost_result (es : List HostEvent) : (s.setHost es).result = s.result := rfl
@[simp] theorem State.setHost_status (es : List HostEvent) : (s.setHost es).status = s.status := rfl
@[simp] theorem State.setHost_ctrl (es : List HostEvent) : (s.setHost es).ctrl = s.ctrl := rfl
@[simp] theorem State.setHost_inLen (es : List HostEvent) : (s.setHost es).inLen = s.inLen := rfl
@[simp] theorem State.setHost_outLen (es : List HostEvent) : (s.setHost es).outLen = s.outLen := rfl
@[simp] theorem State.setHost_crcOut (es : List HostEvent) : (s.setHost es).crcOut = s.crcOut := rfl
@[simp] theorem State.setHost_fd (es : List HostEvent) : (s.setHost es).fd = s.fd := rfl
@[simp] theorem State.setHost_inBuf (es : List HostEvent) : (s.setHost es).inBuf = s.inBuf := rfl
@[simp] theorem State.setHost_outBuf (es : List HostEvent) : (s.setHost es).outBuf = s.outBuf := rfl
@[simp] theorem State.setHost_host (es : List HostEvent) : (s.setHost es).host = es := rfl
@[simp] theorem State.setHost_readData (es : List HostEvent) : (s.setHost es).readData = s.readData := rfl

end Sys2Proof.Machine
end

