-- ==== Sys2Proof/Laws/Commands.lean ====
section
/-! SUPPORT. What the resolver, the post-step and the two sequencers do, said once in closed form for the default
parameters. -/

namespace Sys2Proof.Machine

/-- The resolver on an accepted version with no reserved mode (41_resolver.md R137). -/
theorem resolve_standard {fver : FrameVersion} {dam sam : AddrMode} (panc : Bool) (hv : fver ≠ .v11)
    (hd : dam ≠ .reserved) (hs : sam ≠ .reserved) :
    resolve standard.panIdV2Table fver dam sam panc = .ok (expectedPresence fver dam sam panc) := by
  cases fver <;> cases dam <;> cases sam <;> cases panc <;>
    first
    | rfl
    | exact absurd rfl hv
    | exact absurd rfl hd
    | exact absurd rfl hs

theorem resolveFc_standard {fc : FrameControl} (hv : fc.frameVersion ≠ .v11) (hd : fc.dstAddrMode ≠ .reserved)
    (hs : fc.srcAddrMode ≠ .reserved) : resolveFc standard fc = .ok (fcPresence fc) :=
  resolve_standard _ hv hd hs

/-- The post-step's inferences, each PAN ID said once (42_serializer.md R160, R162, R163). -/
theorem inferPanIds_eq {fc : FrameControl} (h : bothNone fc = false) (fd : FrameDesc) :
    inferPanIds fc fd =
      ⟨{ fd with
          dpan := if infersDpan fc then fd.span else fd.dpan
          span := if infersSpan fc then fd.dpan else fd.span }, infersDpan fc, infersSpan fc⟩ := by
  obtain ⟨ft, _, _, _, pc, _, _, dam, fv, sam⟩ := fc
  simp only [bothNone, inferPanIds, infersDpan, infersSpan, Inferred.copyToDpan, Inferred.copyToSpan] at h ⊢
  rcases Bool.eq_false_or_eq_true (isV01 fv) with hv | hv <;>
    rcases Bool.eq_false_or_eq_true (isDataOrCommand ft) with hg | hg <;>
    cases pc <;> cases dam <;> cases sam <;> simp [hv, hg] at h ⊢

/-- The post-step leaves the FCS. -/
theorem inferPanIds_fcs {fc : FrameControl} (h : bothNone fc = false) (fd : FrameDesc) :
    (inferPanIds fc fd).fd.fcs = fd.fcs := by
  rw [inferPanIds_eq h]

/-- Two tests with one first branch agree when their other branches do. -/
theorem else_congr {α : Type} {c : Prop} [Decidable c] {x y z : α} (h : ¬c → y = z) :
    (if c then x else y) = if c then x else z := by
  split
  · rfl
  · exact h ‹_›

/-- UNPACK's steps under the default parameters (44_facades.md R201), with the cursor gone. -/
theorem unpackSteps_standard (s : State) :
    unpackSteps standard s =
      if s.inValid = false ∨ s.fdValid = false then .error .parameterError
      else if s.inLen.toNat < 2 ∨ 128 < s.inLen.toNat then .error .frameSizeError
      else if (wireFc s.inBuf).frameVersion = .v11 then .error .invalidFrameVersion
      else if (wireFc s.inBuf).frameType = .reserved ∨ (wireFc s.inBuf).frameType = .multipurpose ∨
        (wireFc s.inBuf).frameType = .fragment ∨ (wireFc s.inBuf).frameType = .extended then .error .unsupportedFrameType
      else if (wireFc s.inBuf).dstAddrMode = .reserved ∨ (wireFc s.inBuf).srcAddrMode = .reserved then
        .error .invalidAddressingMode
      else if (wireFc s.inBuf).securityEnabled = true ∨ (wireFc s.inBuf).iePresent = true then .error .unsupportedFeature
      else if s.inLen.toNat < hdrLen (wireFc s.inBuf) (fcPresence (wireFc s.inBuf)) + 2 then .error .frameSizeError
      else if bothNone (wireFc s.inBuf) = true then .error .invalidAddressingMode
      else if crc16 standardCrc (s.inBuf.readBytes 0 (s.inLen.toNat - 2)) ≠
        leValue 16 (s.inBuf.readBytes (s.inLen.toNat - 2) 2) then .error .fcsMismatch
      else .ok ⟨fcPresence (wireFc s.inBuf), inferPanIds (wireFc s.inBuf)
        (receivedFd s.inBuf s.inLen.toNat (wireFc s.inBuf) (fcPresence (wireFc s.inBuf)))⟩ := by
  simp only [unpackSteps, checkFrameControl, raiseIf_bind, ite_bind, error_bind]
  refine else_congr fun h1 => else_congr fun h2 => else_congr fun h3 => else_congr fun h4 => else_congr fun h5 =>
    else_congr fun h6 => ?_
  have hd := fun h => h5 (.inl h)
  have hs := fun h => h5 (.inr h)
  have hn : 2 ≤ s.inLen.toNat := Nat.le_of_not_lt fun h => h2 (.inl h)
  rw [resolveFc_standard h3 hd hs, ok_bind, readFields_eq _ _ _ _ hn hd hs]
  simp only [ite_bind, error_bind, ok_bind, postStep, raiseIf_bind, pure_bind_except]
  refine else_congr fun h7 => else_congr fun h8 => ?_
  rw [inferPanIds_fcs (Bool.eq_false_of_not_eq_true h8)]
  exact else_congr fun h9 => rfl

/-- PACK's steps under the default parameters (44_facades.md R211), with the cursor gone. -/
theorem packSteps_standard (s : State) :
    packSteps standard s =
      if s.fdValid = false ∨ s.outValid = false then .error .parameterError
      else if s.fd.fc.frameVersion = .v11 then .error .invalidFrameVersion
      else if s.fd.fc.frameType = .reserved ∨ s.fd.fc.frameType = .multipurpose ∨
        s.fd.fc.frameType = .fragment ∨ s.fd.fc.frameType = .extended then .error .unsupportedFrameType
      else if s.fd.fc.dstAddrMode = .reserved ∨ s.fd.fc.srcAddrMode = .reserved then .error .invalidAddressingMode
      else if s.fd.fc.securityEnabled = true ∨ s.fd.fc.iePresent = true then .error .unsupportedFeature
      else if 127 < packLength s.fd (fcPresence s.fd.fc) then .error .frameSizeError
      else if bothNone s.fd.fc = true then .error .invalidAddressingMode
      else .ok ⟨fcPresence s.fd.fc, packLength s.fd (fcPresence s.fd.fc),
        Memory.writeBytes [] 0 (frameBytes standardCrc s.fd (fcPresence s.fd.fc))⟩ := by
  simp only [packSteps, checkFrameControl, raiseIf_bind, ite_bind, error_bind]
  refine else_congr fun h1 => else_congr fun h3 => else_congr fun h4 => else_congr fun h5 => else_congr fun h6 => ?_
  have hd := fun h => h5 (.inl h)
  have hs := fun h => h5 (.inr h)
  rw [resolveFc_standard h3 hd hs, ok_bind]
  refine else_congr fun h7 => else_congr fun h8 => ?_
  rw [writeFields_holds s.fd (fcPresence s.fd.fc), appendFcs, Output.emit]
  have hlen := bodyBytes_length s.fd (fcPresence s.fd.fc) hd hs
  have h7' : ¬ 127 < hdrLen s.fd.fc (fcPresence s.fd.fc) + s.fd.plen.toNat + 2 := h7
  rw [Memory.readBytes_writeBytes_nil (by show _ ≤ 128; omega), frameBytes, Memory.writeBytes_append, Nat.zero_add]
  rfl

end Sys2Proof.Machine
end

