-- ==== Sys2Proof/Laws/Crc.lean ====
section
/-! SUPPORT. The CRC register as a linear map over XOR: one bit, one byte and a run of bytes, that nothing but zero goes to
zero, and what low zero bits do. -/

namespace Sys2Proof.Machine

/-- A run of bytes from a register value, with the default polynomial. -/
abbrev crcFold (c : Half) (bytes : List Byte) : Half := bytes.foldl (crcByte standardCrc.polynomial) c

theorem crc16_standard (bytes : List Byte) : crc16 standardCrc bytes = crcFold 0 bytes := by
  simp [crc16, crcFold, standardCrc]

theorem crc16_append (a b : List Byte) : crc16 standardCrc (a ++ b) = crcFold (crc16 standardCrc a) b := by
  rw [crc16_standard, crc16_standard, crcFold, List.foldl_append]

theorem xor_left_comm (a b c : Half) : a ^^^ (b ^^^ c) = b ^^^ (a ^^^ c) := by
  rw [← BitVec.xor_assoc, BitVec.xor_comm a b, BitVec.xor_assoc]

theorem eq_of_xor_eq_zero {a b : Half} (h : a ^^^ b = 0) : a = b := by
  have := congrArg (· ^^^ b) h
  simpa [BitVec.xor_assoc] using this

theorem crcBit_xor (p c d : Half) : crcBit p (c ^^^ d) = crcBit p c ^^^ crcBit p d := by
  unfold crcBit
  rw [BitVec.getLsbD_xor, BitVec.ushiftRight_xor_distrib]
  cases c.getLsbD 0 <;> cases d.getLsbD 0 <;> simp [BitVec.xor_assoc, BitVec.xor_comm, xor_left_comm]

theorem crcBits_xor (p : Half) (k : Nat) (c d : Half) : crcBits p k (c ^^^ d) = crcBits p k c ^^^ crcBits p k d := by
  induction k generalizing c d with
  | zero => rfl
  | succ k ih => simp only [crcBits, crcBit_xor, ih]

/-- One byte is linear in the register and the byte together (43_fcs.md R186). -/
theorem crcByte_xor (p c d : Half) (a b : Byte) : crcByte p (c ^^^ d) (a ^^^ b) = crcByte p c a ^^^ crcByte p d b := by
  unfold crcByte
  rw [← crcBits_xor, BitVec.setWidth_xor]
  simp only [BitVec.xor_assoc]
  rw [xor_left_comm d]

/-- The polynomial's top bit makes one bit of Crc16 undo nothing: only 0 goes to 0. -/
theorem eq_zero_of_crcBit {c : Half} (h : crcBit standardCrc.polynomial c = 0) : c = 0 := by
  unfold crcBit at h
  split at h
  · have := congrArg (fun x => x.getLsbD 15) h
    simp [standardCrc] at this
  · rename_i h0
    apply BitVec.eq_of_getLsbD_eq
    intro i hi
    rcases Nat.eq_zero_or_pos i with rfl | hp
    · simpa using Bool.eq_false_of_not_eq_true h0
    · have := congrArg (fun x => x.getLsbD (i - 1)) h
      simp only [BitVec.getLsbD_ushiftRight, show 1 + (i - 1) = i by omega] at this
      simpa using this

theorem eq_zero_of_crcBits {k : Nat} {c : Half} (h : crcBits standardCrc.polynomial k c = 0) : c = 0 := by
  induction k generalizing c with
  | zero => exact h
  | succ k ih => exact eq_zero_of_crcBit (ih h)

theorem crcBits_inj {k : Nat} {c d : Half}
    (h : crcBits standardCrc.polynomial k c = crcBits standardCrc.polynomial k d) : c = d :=
  eq_of_xor_eq_zero (eq_zero_of_crcBits (k := k) (by rw [crcBits_xor, h, BitVec.xor_self]; rfl))

/-- The same byte keeps different register values apart. -/
theorem crcByte_inj {c d : Half} {b : Byte}
    (h : crcByte standardCrc.polynomial c b = crcByte standardCrc.polynomial d b) : c = d := by
  have := congrArg (· ^^^ b.setWidth 16) (crcBits_inj h)
  simpa [BitVec.xor_assoc] using this

/-- The same run of bytes keeps different register values apart. -/
theorem crcFold_inj {bytes : List Byte} {c d : Half} (h : crcFold c bytes = crcFold d bytes) : c = d := by
  induction bytes generalizing c d with
  | nil => exact h
  | cons b bytes ih => exact crcByte_inj (ih h)

/-- Low bits that are 0 are shifted out. -/
theorem crcBits_of_low_zero (p : Half) {k : Nat} {c : Half} (h : ∀ i, i < k → c.getLsbD i = false) :
    crcBits p k c = c >>> k := by
  induction k generalizing c with
  | zero => simp [crcBits]
  | succ k ih =>
    have h0 : crcBit p c = c >>> 1 := by
      rw [crcBit, h 0 (by omega)]; simp
    rw [crcBits, h0, ih fun i hi => by rw [BitVec.getLsbD_ushiftRight]; exact h _ (by omega), ← BitVec.shiftRight_add]
    congr 1
    omega

end Sys2Proof.Machine
end

