-- ==== Sys2Proof/Laws/PerInstr.lean ====
section
/-! SUPPORT. Statements made of each command as syntax, one lemma per constructor. -/

namespace Sys2Proof.Laws

/-- Family TableWord: the command is well formed, its words are the one byte of its code (30_encoding.md R80, R81), and the
decoder reads the command back from the opcode table's word. -/
def TableWord.Statement (i : Instr) : Prop :=
  i.wf = true ∧ encode i = [commandCode i] ∧ decodeTableWord 8 (commandCode i).toNat = some i

theorem TableWord.nop : TableWord.Statement .nop := ⟨rfl, rfl, rfl⟩

theorem TableWord.unpack : TableWord.Statement .unpack := ⟨rfl, rfl, rfl⟩

theorem TableWord.pack : TableWord.Statement .pack := ⟨rfl, rfl, rfl⟩

theorem TableWord.resolve : TableWord.Statement .resolve := ⟨rfl, rfl, rfl⟩

theorem TableWord.crc16 : TableWord.Statement .crc16 := ⟨rfl, rfl, rfl⟩

end Sys2Proof.Laws
end

