-- ==== Sys2Proof/Laws/Window.lean ====
section
/-! SUPPORT. The window map covers each offset of the window once (20_memory.md R67), and what a byte access is. -/

namespace Sys2Proof.Machine

/-- No two rows of the window map share an offset. -/
theorem windowMap_disjoint :
    windowMap.Pairwise fun r q => r.base + r.size ≤ q.base := by decide

theorem covers_iff {r : WindowRow} {off : Nat} : r.covers off = true ↔ r.base ≤ off ∧ off < r.base + r.size := by
  simp [WindowRow.covers]

theorem find_of_disjoint {l : List WindowRow} (hl : l.Pairwise fun r q => r.base + r.size ≤ q.base) {r : WindowRow}
    (hr : r ∈ l) {off : Nat} (h : r.covers off = true) : l.find? (·.covers off) = some r := by
  induction l with
  | nil => simp at hr
  | cons q l ih =>
    obtain ⟨hq, hl⟩ := List.pairwise_cons.1 hl
    rcases List.mem_cons.1 hr with rfl | hr
    · simp [h]
    · have hne : ¬ q.covers off = true := by
        have := hq r hr
        rw [covers_iff] at h ⊢
        omega
      rw [List.find?_cons_of_neg (by simpa using hne)]
      exact ih hl hr

/-- An offset that a row covers belongs to that row's register. -/
theorem locate_of_mem {r : WindowRow} (hr : r ∈ windowMap) {off : Nat} (h : r.base ≤ off ∧ off < r.base + r.size) :
    locate off = some (r.reg, off - r.base) := by
  rw [locate, find_of_disjoint windowMap_disjoint hr (covers_iff.2 h)]
  rfl

/-- What `locate` answers comes from a row of the map. -/
theorem locate_eq_some {off : Nat} {r : Reg} {i : Nat} (h : locate off = some (r, i)) :
    ∃ row ∈ windowMap, row.reg = r ∧ i < row.size ∧ off = row.base + i := by
  rw [locate] at h
  obtain ⟨row, hrow, he⟩ := Option.map_eq_some_iff.1 h
  have hc := covers_iff.1 (by simpa using List.find?_some hrow)
  cases he
  exact ⟨row, List.mem_of_find?_eq_some hrow, rfl, by omega, by omega⟩

/-- The window is exactly the offsets below 0x200 (20_memory.md R63). -/
theorem locate_eq_none {off : Nat} : locate off = none ↔ windowSize ≤ off := by
  rw [locate, Option.map_eq_none_iff, List.find?_eq_none]
  simp only [windowMap, List.mem_cons, List.not_mem_nil, or_false, forall_eq_or_imp, forall_eq, covers_iff, windowSize]
  omega

/-- A window address of the host, and the offset it stands for (20_memory.md R63). -/
theorem offsetOf_base {off : Nat} (h : off < windowSize) : offsetOf (Config.windowBase + off) = some off := by
  rw [offsetOf, if_pos ⟨by omega, by omega⟩]
  congr 1
  omega

/-- A byte of a buffer stays inside its frame space. -/
theorem locate_inBuf {off i : Nat} (h : locate off = some (.inBuf, i)) : i < bufferSize := by
  obtain ⟨row, hm, hr, hi, -⟩ := locate_eq_some h
  revert hr hi
  simp only [windowMap, List.mem_cons, List.not_mem_nil, or_false] at hm
  rcases hm with rfl | rfl | rfl | rfl | rfl | rfl | rfl | rfl | rfl | rfl | rfl | rfl | rfl | rfl | rfl | rfl | rfl |
    rfl | rfl <;> simp

theorem locate_fdPayload {off i : Nat} (h : locate off = some (.fdPayload, i)) : i < bufferSize := by
  obtain ⟨row, hm, hr, hi, -⟩ := locate_eq_some h
  revert hr hi
  simp only [windowMap, List.mem_cons, List.not_mem_nil, or_false] at hm
  rcases hm with rfl | rfl | rfl | rfl | rfl | rfl | rfl | rfl | rfl | rfl | rfl | rfl | rfl | rfl | rfl | rfl | rfl |
    rfl | rfl <;> simp

end Sys2Proof.Machine
end

