-- ==== Sys2Proof/Laws/Step.lean ====
section
/-! SUPPORT. Everything a step can do, said once, and what each command's end can be. -/

namespace Sys2Proof.Machine

/-- `raise` leaves all but what 60_exceptions.md R241 names. -/
theorem raise_unpack {e : ResultCode} (s : State) :
    raise .unpack e s =
      if e = .parameterError then s.setResult e else ((s.setFd .zero).setStatus 0).setResult e := rfl

theorem raise_pack {e : ResultCode} (s : State) :
    raise .pack e s = if e = .parameterError then s.setResult e else ((s.setOut 0 []).setStatus 0).setResult e := rfl

/-- UNPACK ends in one of three ways (44_facades.md R201, 60_exceptions.md R241). -/
theorem unpack_cases {s t : State} (h : exec .unpack s = .next t) :
    (unpackSteps standard s = .error .parameterError ∧ t = s.setResult .parameterError) ∨
    (∃ e, e ≠ .parameterError ∧ unpackSteps standard s = .error e ∧
      t = ((s.setFd .zero).setStatus 0).setResult e) ∨
    ∃ u, unpackSteps standard s = .ok u ∧ t = commitUnpack u s := by
  obtain rfl : unpackWith standard s = t := by simpa [exec, execUnpack] using h
  unfold unpackWith conclude
  rcases hu : unpackSteps standard s with e | u
  · by_cases he : e = .parameterError
    · subst he; exact .inl ⟨rfl, rfl⟩
    · exact .inr (.inl ⟨e, he, rfl, by simp [raise_unpack, he]⟩)
  · exact .inr (.inr ⟨u, rfl, rfl⟩)

/-- PACK ends in one of three ways (44_facades.md R211, 60_exceptions.md R241). -/
theorem pack_cases {s t : State} (h : exec .pack s = .next t) :
    (packSteps standard s = .error .parameterError ∧ t = s.setResult .parameterError) ∨
    (∃ e, e ≠ .parameterError ∧ packSteps standard s = .error e ∧ t = ((s.setOut 0 []).setStatus 0).setResult e) ∨
    ∃ r, packSteps standard s = .ok r ∧ t = commitPack r s := by
  obtain rfl : packWith standard s = t := by simpa [exec, execPack] using h
  unfold packWith conclude
  rcases hu : packSteps standard s with e | u
  · by_cases he : e = .parameterError
    · subst he; exact .inl ⟨rfl, rfl⟩
    · exact .inr (.inl ⟨e, he, rfl, by simp [raise_pack, he]⟩)
  · exact .inr (.inr ⟨u, rfl, rfl⟩)

/-- RESOLVE ends in one of two ways (41_resolver.md R136). -/
theorem resolve_cases {s t : State} (h : exec .resolve s = .next t) :
    (∃ e, resolveFc standard s.fd.fc = .error e ∧ t = (s.setStatus 0).setResult e) ∨
    ∃ p, resolveFc standard s.fd.fc = .ok p ∧ t = commitResolve p s := by
  obtain rfl : resolveWith standard s = t := by simpa [exec, execResolve] using h
  unfold resolveWith conclude
  rcases resolveFc standard s.fd.fc with e | p
  · exact .inl ⟨e, rfl, rfl⟩
  · exact .inr ⟨p, rfl, rfl⟩

/-- CRC16 ends in one of two ways (43_fcs.md R185). -/
theorem crc16_cases {s t : State} (h : exec .crc16 s = .next t) :
    (128 < s.inLen.toNat ∧ t = (s.setCrcOut 0).setResult .frameSizeError) ∨
    (s.inLen.toNat ≤ 128 ∧
      t = (s.setCrcOut (crc16 standardCrc (s.inBuf.readBytes 0 s.inLen.toNat))).setResult .success) := by
  obtain rfl : crc16With standard s = t := by simpa [exec, execCrc16] using h
  unfold crc16With crc16Steps
  rw [raiseIf_bind]
  by_cases hn : s.inLen.toNat > standard.maxFrameLen
  · rw [if_pos hn]; exact .inl ⟨hn, rfl⟩
  · rw [if_neg hn]; exact .inr ⟨Nat.le_of_not_lt hn, rfl⟩

/-- Every command completes, in every state (70_reset_and_hazards.md R276). -/
theorem exec_next (i : Instr) (s : State) : ∃ t, exec i s = .next t := by
  cases i <;> exact ⟨_, rfl⟩

/-- A command leaves the registers no command writes, and the host's side. -/
theorem exec_frame {i : Instr} {s t : State} (h : exec i s = .next t) :
    t.cmd = s.cmd ∧ t.ctrl = s.ctrl ∧ t.inLen = s.inLen ∧ t.inBuf = s.inBuf ∧ t.host = s.host ∧
      t.readData = s.readData := by
  cases i with
  | nop => cases h; simp
  | unpack =>
    rcases unpack_cases h with ⟨-, rfl⟩ | ⟨e, -, -, rfl⟩ | ⟨u, -, rfl⟩ <;> simp [commitUnpack]
  | pack =>
    rcases pack_cases h with ⟨-, rfl⟩ | ⟨e, -, -, rfl⟩ | ⟨u, -, rfl⟩ <;> simp [commitPack]
  | resolve =>
    rcases resolve_cases h with ⟨e, -, rfl⟩ | ⟨p, -, rfl⟩ <;> simp [commitResolve]
  | crc16 =>
    rcases crc16_cases h with ⟨-, rfl⟩ | ⟨-, rfl⟩ <;> simp

/-- A write to a register of the window that is not CMD. -/
theorem hostWrite_reg {off : Nat} {v : Byte} {s : State} {r : Reg} {i : Nat} (h : locate off = some (r, i))
    (hr : r ≠ .cmd) : hostWrite off v s = .next (writeReg r i v s) := by
  rw [hostWrite, h]
  cases r <;> first | rfl | exact absurd rfl hr

/-- A write to CMD stores the byte and runs the command (10_state.md R27). -/
theorem hostWrite_cmd (v : Byte) (s : State) : hostWrite cmdOffset v s = issueCommand v (s.setCmd v) := rfl

/-- What a host write can end in. -/
theorem hostWrite_cases {off : Nat} {v : Byte} {s t : State} (h : hostWrite off v s = .next t) :
    (∃ r i, r ≠ .cmd ∧ locate off = some (r, i) ∧ t = writeReg r i v s) ∨
    (∃ i, exec i (s.setCmd v) = .next t) ∨ t = unknownCommand (s.setCmd v) := by
  rw [hostWrite] at h
  split at h
  · cases h
  · rename_i i hl
    rw [issueCommand] at h
    split at h
    · exact .inr (.inl ⟨_, h⟩)
    · cases h; exact .inr (.inr rfl)
  · rename_i r i hr hl
    cases h
    exact .inl ⟨r, i, hr, hl, rfl⟩

/-- Everything a host event can do when it does not stop. -/
theorem runEvent_cases {e : HostEvent} {s t : State} (h : runEvent e s = .next t) :
    t = resetEvent s ∨ (∃ b, t = s.setReadData b) ∨
    (∃ off r i v, r ≠ .cmd ∧ locate off = some (r, i) ∧ t = writeReg r i v s) ∨
    (∃ c i, exec i (s.setCmd c) = .next t) ∨ ∃ c, t = unknownCommand (s.setCmd c) := by
  cases e with
  | write off v =>
    rcases hostWrite_cases h with ⟨r, i, hr, hl, rfl⟩ | ⟨i, hi⟩ | rfl
    · exact .inr (.inr (.inl ⟨off, r, i, v, hr, hl, rfl⟩))
    · exact .inr (.inr (.inr (.inl ⟨v, i, hi⟩)))
    · exact .inr (.inr (.inr (.inr ⟨v, rfl⟩)))
  | read off =>
    simp only [runEvent, hostRead] at h
    split at h
    · cases h
    · cases h; exact .inr (.inl ⟨_, rfl⟩)
  | writeReadData off =>
    rcases hostWrite_cases h with ⟨r, i, hr, hl, rfl⟩ | ⟨i, hi⟩ | rfl
    · exact .inr (.inr (.inl ⟨off, r, i, _, hr, hl, rfl⟩))
    · exact .inr (.inr (.inr (.inl ⟨_, i, hi⟩)))
    · exact .inr (.inr (.inr (.inr ⟨_, rfl⟩)))
  | reset =>
    simp only [runEvent] at h
    cases h
    exact .inl rfl

/-- Everything a step can do when it does not stop: nothing, with no event to come; or what the oldest event does. -/
theorem step_cases {s t : State} (h : step s = .next t) :
    (s.host = [] ∧ t = s) ∨ ∃ e es, s.host = e :: es ∧ runEvent e (s.setHost es) = .next t := by
  rw [step] at h
  split at h
  · cases h; exact .inl ⟨‹_›, rfl⟩
  · exact .inr ⟨_, _, ‹_›, h⟩

/-- A step of a state whose oldest event is known. -/
theorem step_cons {s : State} {e : HostEvent} {es : List HostEvent} (h : s.host = e :: es) :
    step s = runEvent e (s.setHost es) := by
  rw [step, h]

/-- A placed table word runs next, and the rest of the queue is as it was. -/
theorem step_withFetchWord (s : State) (nbits w : Nat) :
    step (s.withFetchWord nbits w) = issueCommand (tableByte nbits w) (s.setCmd (tableByte nbits w)) := rfl

/-- A host write of a register keeps the host's side. -/
theorem writeReg_host (r : Reg) (i : Nat) (v : Byte) (s : State) : (writeReg r i v s).host = s.host := by
  cases r <;> rfl

/-- A host write keeps the frame spaces in canonical form. -/
theorem writeReg_memWf {off : Nat} {r : Reg} {i : Nat} (hl : locate off = some (r, i)) (v : Byte) {s : State}
    (h : s.memWf) : (writeReg r i v s).memWf := by
  obtain ⟨hi, ho, hp⟩ := h
  cases r
  case inBuf => exact ⟨Memory.wf_write hi (locate_inBuf hl) v, ho, hp⟩
  case fdPayload => exact ⟨hi, ho, Memory.wf_write hp (locate_fdPayload hl) v⟩
  all_goals exact ⟨hi, ho, hp⟩

end Sys2Proof.Machine
end

