-- ==== Sys2Proof/Laws/Success.lean ====
section
/-! SUPPORT. What a success of UNPACK or PACK says: every test of the command was passed, and the state is the one
commit gives. -/

namespace Sys2Proof.Machine

/-- The only code numbered 0x00 (30_encoding.md R87). -/
theorem code_eq_zero {e : ResultCode} (h : e.code = 0x00) : e = .success := by
  cases e <;> first | rfl | (exfalso; revert h; decide)

/-- The only code numbered 0x01 (30_encoding.md R87). -/
theorem code_eq_one {e : ResultCode} (h : e.code = 0x01) : e = .parameterError := by
  cases e <;> first | rfl | (exfalso; revert h; decide)

/-- The codes UNPACK can raise (44_facades.md R203). -/
theorem unpackSteps_error {s : State} {e : ResultCode} (h : unpackSteps standard s = .error e) :
    e ≠ .success ∧ e ≠ .unknownCommand ∧ e ≠ .noResult := by
  rw [unpackSteps_standard] at h
  repeat' split at h
  all_goals first | (cases h; simp) | cases h

/-- The codes PACK can raise (44_facades.md R213). -/
theorem packSteps_error {s : State} {e : ResultCode} (h : packSteps standard s = .error e) :
    e ≠ .success ∧ e ≠ .unknownCommand ∧ e ≠ .noResult := by
  rw [packSteps_standard] at h
  repeat' split at h
  all_goals first | (cases h; simp) | cases h

/-- The codes the resolver can raise (41_resolver.md R130, R135). -/
theorem resolveFc_error {fc : FrameControl} {e : ResultCode} (h : resolveFc standard fc = .error e) :
    e = .invalidFrameVersion ∨ e = .invalidAddressingMode := by
  simp only [resolveFc, resolve, raiseIf_bind, resolveV2] at h
  repeat' split at h
  all_goals first | (cases h; simp) | cases h

/-- The tests of steps 4 to 7 say no more than 30_encoding.md R91. -/
theorem acceptedFc_iff (fc : FrameControl) :
    acceptedFc fc ↔ fc.frameVersion ≠ .v11 ∧
      ¬(fc.frameType = .reserved ∨ fc.frameType = .multipurpose ∨ fc.frameType = .fragment ∨
        fc.frameType = .extended) ∧
      ¬(fc.dstAddrMode = .reserved ∨ fc.srcAddrMode = .reserved) ∧
      ¬(fc.securityEnabled = true ∨ fc.iePresent = true) := by
  obtain ⟨ft, se, _, _, _, _, ie, dam, fv, sam⟩ := fc
  cases ft <;> cases se <;> cases ie <;> simp [acceptedFc]

/-- A test passed on the way to an answer. -/
theorem else_of_ok {α : Type} {c : Prop} [Decidable c] {e : ResultCode} {x : Except ResultCode α} {a : α}
    (h : (if c then .error e else x) = .ok a) : ¬c ∧ x = .ok a := by
  split at h
  · cases h
  · exact ⟨‹_›, h⟩

/-- A successful UNPACK passed every test, and its state is the one of 44_facades.md R201 step 12. -/
theorem unpack_success {s t : State} (h : exec .unpack s = .next t) (h0 : t.result = 0x00) :
    s.inValid = true ∧ s.fdValid = true ∧ s.inLen.toNat ≤ 128 ∧ acceptedFc (wireFc s.inBuf) ∧
    hdrLen (wireFc s.inBuf) (fcPresence (wireFc s.inBuf)) + 2 ≤ s.inLen.toNat ∧ bothNone (wireFc s.inBuf) = false ∧
    crc16 standardCrc (s.inBuf.readBytes 0 (s.inLen.toNat - 2)) =
      leValue 16 (s.inBuf.readBytes (s.inLen.toNat - 2) 2) ∧
    t = commitUnpack ⟨fcPresence (wireFc s.inBuf), inferPanIds (wireFc s.inBuf)
      (receivedFd s.inBuf s.inLen.toNat (wireFc s.inBuf) (fcPresence (wireFc s.inBuf)))⟩ s := by
  rcases unpack_cases h with ⟨-, rfl⟩ | ⟨e, -, he, rfl⟩ | ⟨u, hu, rfl⟩
  · exact absurd h0 (by simp [ResultCode.code])
  · exact absurd (code_eq_zero h0) (unpackSteps_error he).1
  · rw [unpackSteps_standard] at hu
    obtain ⟨h1, hu⟩ := else_of_ok hu
    obtain ⟨h2, hu⟩ := else_of_ok hu
    obtain ⟨h3, hu⟩ := else_of_ok hu
    obtain ⟨h4, hu⟩ := else_of_ok hu
    obtain ⟨h5, hu⟩ := else_of_ok hu
    obtain ⟨h6, hu⟩ := else_of_ok hu
    obtain ⟨h7, hu⟩ := else_of_ok hu
    obtain ⟨h8, hu⟩ := else_of_ok hu
    obtain ⟨h9, hu⟩ := else_of_ok hu
    cases hu
    simp only [not_or, Bool.not_eq_false] at h1
    exact ⟨h1.1, h1.2, by omega, (acceptedFc_iff _).2 ⟨h3, h4, h5, h6⟩, by omega, Bool.eq_false_of_not_eq_true h8,
      Decidable.not_not.1 h9, rfl⟩

/-- A successful PACK passed every test, and its state is the one of 44_facades.md R211 step P12. -/
theorem pack_success {s t : State} (h : exec .pack s = .next t) (h0 : t.result = 0x00) :
    s.fdValid = true ∧ s.outValid = true ∧ acceptedFc s.fd.fc ∧
    hdrLen s.fd.fc (fcPresence s.fd.fc) + s.fd.plen.toNat + 2 ≤ 127 ∧ bothNone s.fd.fc = false ∧
    t = commitPack ⟨fcPresence s.fd.fc, packLength s.fd (fcPresence s.fd.fc),
      Memory.writeBytes [] 0 (frameBytes standardCrc s.fd (fcPresence s.fd.fc))⟩ s := by
  rcases pack_cases h with ⟨-, rfl⟩ | ⟨e, -, he, rfl⟩ | ⟨r, hr, rfl⟩
  · exact absurd h0 (by simp [ResultCode.code])
  · exact absurd (code_eq_zero h0) (packSteps_error he).1
  · rw [packSteps_standard] at hr
    obtain ⟨h1, hr⟩ := else_of_ok hr
    obtain ⟨h3, hr⟩ := else_of_ok hr
    obtain ⟨h4, hr⟩ := else_of_ok hr
    obtain ⟨h5, hr⟩ := else_of_ok hr
    obtain ⟨h6, hr⟩ := else_of_ok hr
    obtain ⟨h7, hr⟩ := else_of_ok hr
    obtain ⟨h8, hr⟩ := else_of_ok hr
    cases hr
    simp only [not_or, Bool.not_eq_false] at h1
    exact ⟨h1.1, h1.2, (acceptedFc_iff _).2 ⟨h3, h4, h5, h6⟩, Nat.le_of_not_lt h7, Bool.eq_false_of_not_eq_true h8, rfl⟩

end Sys2Proof.Machine
end

