-- ==== Sys2Proof/Tests/Slice0.lean ====
section
/-! SUPPORT. Tests: decoding from written-out words, the well-formedness checks, one step per command against the vectors of
95_test_vectors.md, and for every statement with hypotheses a concrete state that meets them. -/

namespace Sys2Proof.Tests

open Sys2Proof Sys2Proof.Machine
open Host (Outcome)

/-! ### Helpers -/

/-- The state an outcome holds; the state after reset where it stops. -/
def nextOf : Outcome State Fault Refusal → State
  | .next t => t
  | .fault _ => State.reset
  | .refused _ => State.reset

/-- A state with a frame in IN_BUF. -/
def received (ctrl : BitVec 3) (bytes : List Byte) : State :=
  { State.reset with ctrl := ctrl, inLen := BitVec.ofNat 8 bytes.length, inBuf := Memory.writeBytes [] 0 bytes }

/-- A state with a frame description to pack, its frame control given as a word. -/
def described (fc : Half) (fd : FrameDesc) : State :=
  { State.reset with ctrl := 0b110, fd := { fd with fc := fcDecode fc } }

/-- V-U5: the acknowledgment of 95_test_vectors.md, five bytes. -/
def ackFrame : State := received 0b011 [0x02, 0x00, 0x07, 0x07, 0xC1]

/-- V-U17: a beacon with a source address and one payload byte. -/
def beaconFrame : State := received 0b011 [0x00, 0x80, 0x01, 0x34, 0x12, 0x00, 0x00, 0xAA, 0x70, 0x8B]

/-- V-U18: a data frame whose destination PAN ID is inferred. -/
def inferringFrame : State :=
  received 0b011 [0x01, 0xC0, 0x09, 0x22, 0x11, 0x01, 0x02, 0x03, 0x04, 0x05, 0x06, 0x07, 0x08, 0x03, 0xBD]

/-- V-U38: a data frame whose source PAN ID is inferred from the compression flag. -/
def compressedFrame : State := received 0b011 [0x41, 0x88, 0x01, 0x34, 0x12, 0xFF, 0xFF, 0x01, 0x00, 0x58, 0xBD]

/-- L1-A: the frame description of Scenario A, 13 bytes when packed. -/
def scenarioA : State :=
  described 0x8801 { FrameDesc.zero with seq := 0x05, dpan := 0x1234, daddr := 0xABCD, span := 0x5678, saddr := 0x0001 }

/-- V-PK1: an acknowledgment to pack, five bytes. -/
def ackToPack : State := described 0x0002 { FrameDesc.zero with seq := 0x07 }

/-- V-PK1's output, with NOP to come: OUT_BUF holds a whole frame. -/
def packedAck : State :=
  { State.reset with
    result := 0x00, outLen := 5, outBuf := [(0, 0x02), (2, 0x07), (3, 0x07), (4, 0xC1)]
    host := [.write 0x000 0x00] }

/-! ### Decoding: words written out from the spec's encodings -/

/-- 30_encoding.md R81, each code bit by bit. -/
theorem test_decode_commands :
    decode [0b00000000] = .ok (.nop, []) ∧ decode [0b00000001] = .ok (.unpack, []) ∧
    decode [0b00000010] = .ok (.pack, []) ∧ decode [0b00000011] = .ok (.resolve, []) ∧
    decode [0b00000100] = .ok (.crc16, []) := ⟨rfl, rfl, rfl, rfl, rfl⟩

/-- 30_encoding.md R82: the first and the last reserved code, and a high bit on a listed one. -/
theorem test_decode_reserved :
    decode [0b00000101] = .error (.reservedCommand 0x05) ∧ decode [0b11111111] = .error (.reservedCommand 0xFF) ∧
    decode [0b10000001] = .error (.reservedCommand 0x81) ∧ decode [] = .error .noByte := ⟨rfl, rfl, rfl, rfl⟩

/-- V-F9, bit by bit from 30_encoding.md R83: src none, version 2, dst extended, no IE, no SNS, bit 7 clear, compression,
ack request, no pending, security, command. -/
theorem test_fcDecode_V_F9 :
    fcDecode 0b0010110001101011 =
      ⟨.command, true, false, true, true, false, false, .extended, .v10, .none⟩ := by decide

/-- V-F3 and V-F1: all bits set, of which bit 7 is dropped; the fixture's word. -/
theorem test_fc_V_F3_F1 :
    fcEncode (fcDecode 0xFFFF) = 0xFF7F ∧
    fcDecode 0x8841 = ⟨.data, false, false, false, true, false, false, .short, .v00, .short⟩ := by decide

/-- 30_encoding.md R87, the numbers of the result codes a row of the table at a time. -/
theorem test_result_codes :
    [ResultCode.success, .parameterError, .frameSizeError, .unsupportedFeature, .invalidAddressingMode,
      .invalidFrameVersion, .unsupportedFrameType, .fcsMismatch, .unknownCommand, .noResult].map ResultCode.code =
    [0x00, 0x01, 0x02, 0x03, 0x04, 0x05, 0x06, 0x07, 0x08, 0xFF] := by decide

/-- 30_encoding.md R94: a wide write is least significant byte first; `copy` is reads and writes in turn. -/
theorem test_host_forms :
    (HostForm.wr16 0x00A 0x1234).expand = [.write 0x00A 0x34, .write 0x00B 0x12] ∧
    (HostForm.copy 0x100 0x080 2).expand =
      [.read 0x100, .writeReadData 0x080, .read 0x101, .writeReadData 0x081] ∧
    (HostForm.cmd .crc16).expand = [.write 0x000 0x04] := by decide

/-! ### The well-formedness checks refuse ill-formed terms -/

/-- Each form that crosses the window's end is refused, and the last one inside is not. -/
theorem test_wf_hostForm :
    (HostForm.wr 0x200 0).wf = false ∧ (HostForm.rd 0x200).wf = false ∧ (HostForm.wr16 0x1FF 0).wf = false ∧
    (HostForm.wr64 0x1F9 0).wf = false ∧ (HostForm.rd16 0x1FF).wf = false ∧ (HostForm.rd64 0x1F9).wf = false ∧
    (HostForm.wrbuf 0x1FE [1, 2, 3]).wf = false ∧ (HostForm.copy 0x1F8 0x080 9).wf = false ∧
    (HostForm.copy 0x100 0x1F8 9).wf = false ∧ (HostForm.wr64 0x1F8 0).wf = true := by decide

theorem test_wf_hostEvent :
    (HostEvent.write 0x200 0).wf = false ∧ (HostEvent.read 0x200).wf = false ∧
    (HostEvent.writeReadData 0x200).wf = false ∧ (HostEvent.read 0x1FF).wf = true ∧ HostEvent.reset.wf = true := by decide

theorem test_wf_panIdRow :
    PanIdRow.wf ⟨.reserved, .none, false, false, false⟩ = false ∧
    PanIdRow.wf ⟨.none, .reserved, false, false, false⟩ = false ∧ standardTable.all PanIdRow.wf = true := by decide

/-- One parameter out of range at a time. -/
theorem test_wf_config :
    Config.wf { standard with minFrameLen := 1 } = false ∧ Config.wf { standard with minFrameLen := 129 } = false ∧
    Config.wf { standard with maxFrameLen := 129 } = false ∧ Config.wf { standard with maxPackLen := 129 } = false ∧
    Config.wf { standard with panIdV2Table := [⟨.reserved, .none, false, false, false⟩] } = false ∧
    Config.wf standard = true := by decide

/-- A frame space that lists a 0x00, repeats an address, is out of order or leaves the buffer is not canonical. -/
theorem test_wf_memory :
    ¬Memory.wf [(3, 0)] ∧ ¬Memory.wf [(3, 1), (3, 1)] ∧ ¬Memory.wf [(4, 1), (3, 1)] ∧ ¬Memory.wf [(128, 1)] ∧
    Memory.wf [(0, 1), (127, 1)] := by decide

/-! ### One step per command, against the vectors -/

/-- Writing 0x00 removes the entry. -/
theorem test_memory_write :
    Memory.write [(3, 1), (5, 2)] 3 0 = [(5, 2)] ∧ Memory.write [(5, 2)] 3 7 = [(3, 7), (5, 2)] ∧
    Memory.writeBytes [] 126 [1, 0] = [(126, 1)] := by decide

/-- V-NOP2: NOP after V-U17 leaves RESULT, STATUS and the FD. -/
theorem test_nop : exec .nop (nextOf (exec .unpack beaconFrame)) = .next (nextOf (exec .unpack beaconFrame)) := rfl

/-- V-U18: the destination PAN ID is inferred from the source one. -/
theorem test_unpack_infers :
    (nextOf (exec .unpack inferringFrame)).result = 0x00 ∧ (nextOf (exec .unpack inferringFrame)).status = 0x6 ∧
    (nextOf (exec .unpack inferringFrame)).fd.dpan = 0x1122 ∧
    (nextOf (exec .unpack inferringFrame)).fd.saddr = 0x0807060504030201 := by decide +kernel

/-- V-U32's point on V-U5: the FCS is little-endian; the failure clears the FD. -/
theorem test_unpack_fcs_order :
    nextOf (exec .unpack { received 0b011 [0x02, 0x00, 0x07, 0xC1, 0x07] with fd := scenarioA.fd }) =
      { received 0b011 [0x02, 0x00, 0x07, 0xC1, 0x07] with result := 0x07 } := by decide +kernel

/-- V-PK18: a short address sends its low two bytes. -/
theorem test_pack_short_address :
    (nextOf (exec .pack (described 0x0803
      { FrameDesc.zero with seq := 0x01, dpan := 0x0102, daddr := 0xFFFFFFFFFFFF0304 }))).outBuf.readBytes 0 10 =
      [0x03, 0x08, 0x01, 0x02, 0x01, 0x04, 0x03, 0x23, 0xB4, 0x00] := by decide +kernel

/-- V-PK12: a frame of 128 bytes is too long to send. -/
theorem test_pack_too_long :
    (nextOf (exec .pack (described 0x8801 { FrameDesc.zero with seq := 0x01, plen := 115 }))).result = 0x02 := by
  decide +kernel

/-- V-RS6 and V-RS18: row 12 of the table; the version is tested before the mode. -/
theorem test_resolve :
    (nextOf (exec .resolve (described 0xEC41 .zero))).status = 0x0 ∧
    (nextOf (exec .resolve (described 0xEC41 .zero))).result = 0x00 ∧
    (nextOf (exec .resolve (described 0x7001 .zero))).result = 0x05 := by decide +kernel

/-- V-RS7: row 17. -/
theorem test_resolve_row_17 : (nextOf (exec .resolve (described 0xAC41 .zero))).status = 0x1 := by decide +kernel

/-- V-CRC6: the check value of "123456789". -/
theorem test_crc16 :
    (nextOf (exec .crc16 (received 0 [0x31, 0x32, 0x33, 0x34, 0x35, 0x36, 0x37, 0x38, 0x39]))).crcOut = 0x2189 := by
  decide +kernel

/-- V-CRC15: a length above 128. -/
theorem test_crc16_too_long :
    nextOf (exec .crc16 { State.reset with inLen := 200, crcOut := 0x1234 }) =
      { State.reset with inLen := 200, result := 0x02 } := by decide +kernel

/-- V-NOP5: a reserved code straight after reset; CMD reads it back. -/
theorem test_reserved_code :
    nextOf (step { State.reset with host := [.write 0x000 0x80] }) = { State.reset with cmd := 0x80, result := 0x08 } := by
  decide +kernel

/-- The table word placed for the host is what the next step runs: CRC16 of nothing. -/
theorem test_withFetchWord :
    nextOf (step (State.reset.withFetchWord 8 0x04)) = { State.reset with cmd := 0x04, result := 0x00 } := by decide +kernel

/-- The register view of section 2.1: FD_FC written with 0xFFFF reads 0xFF7F. -/
theorem test_fdFc_view :
    (nextOf (Host.Core.run core 2 (State.reset.setHost (HostForm.wr16 0x008 0xFFFF).expand))).windowLE 2 0x008 =
      some 0xFF7F := by decide +kernel

/-- 43_fcs.md R182: one entry of the table, at a row's start. -/
theorem test_crcTable : crcTable[0x80]? = some 0x8408 := by decide

/-- A window address of the host stands for its offset, whatever WINDOW_BASE is. -/
theorem test_offsetOf : offsetOf (Config.windowBase + 0x1FF) = some 0x1FF := by
  rw [offsetOf, if_pos ⟨by omega, by simp [windowSize]⟩]
  simp

/-! ### Witnesses: a concrete state for the hypotheses of each statement -/

theorem witness_ResetSetsEveryRegister :
    ∃ (s : State) (es : List HostEvent), s.host = HostEvent.reset :: es ∧ s.result = 0x00 ∧ 0x1FF < 0x200 :=
  ⟨{ packedAck with host := [.reset, .read 0] }, [.read 0], rfl, rfl, by decide⟩

theorem witness_ResetAbandonsCommand :
    ∃ (s : State) (c : Byte) (es : List HostEvent), s.host = HostEvent.write 0x000 c :: HostEvent.reset :: es :=
  ⟨ackFrame.withHost [.write 0x000 0x01, .reset], 0x01, [], rfl⟩

theorem witness_CommandEncodingRoundTrip :
    ∃ (i : Instr) (b : Byte) (rest : List Byte), i.wf = true ∧ decode (b :: rest) = .ok (i, rest) :=
  ⟨.crc16, 0x04, [0x01], rfl, rfl⟩

theorem witness_StepRunsWrittenCommand :
    ∃ (s : State) (c : Byte) (es : List HostEvent) (i : Instr) (t : State),
      s.host = HostEvent.write 0x000 c :: es ∧ decode [c] = .ok (i, []) ∧ exec i s = .next t :=
  ⟨ackFrame.withHost [.write 0x000 0x01, .read 0x001], 0x01, [.read 0x001], .unpack, _, rfl, rfl, rfl⟩

theorem witness_FetchWordRunsNext : decodeTableWord 8 0x02 = some .pack := rfl

/-- The first and the last reserved code. -/
theorem witness_ReservedCodeRunsUnknown :
    5 ≤ (0x05 : Byte).toNat ∧ 5 ≤ (0xFF : Byte).toNat ∧
    ∃ (s : State) (es : List HostEvent), s.host = HostEvent.write 0x000 0x05 :: es :=
  ⟨by decide, by decide, packedAck.setHost [.write 0x000 0x05], [], rfl⟩

/-- The last offset inside the window, each kind of event at the queue's head, and an empty queue. -/
theorem witness_StepNeverStopsInsideWindow :
    (State.reset.setHost [.write 0x000 0x01, .write 0x1FF 0x55, .read 0x1FF, .reset]).hostInside ∧
    (∃ (s : State) (es : List HostEvent), s.host = HostEvent.write 0x1FF 0x55 :: es) ∧
    (∃ (s : State) (es : List HostEvent), s.host = HostEvent.read 0x1FF :: es) ∧
    (∃ (s : State) (es : List HostEvent), s.host = HostEvent.writeReadData 0x080 :: es) ∧
    (∃ (s : State) (es : List HostEvent), s.host = HostEvent.reset :: es) ∧ ∃ s : State, s.host = [] := by
  refine ⟨fun e he => ?_, ⟨State.reset.setHost [.write 0x1FF 0x55], [], rfl⟩, ⟨State.reset.setHost [.read 0x1FF], [], rfl⟩,
    ⟨State.reset.setHost [.writeReadData 0x080], [], rfl⟩, ⟨packedAck.setHost [.reset], [], rfl⟩, State.reset, rfl⟩
  simp only [State.setHost, List.mem_cons, List.not_mem_nil, or_false] at he
  rcases he with rfl | rfl | rfl | rfl <;> decide

/-- One state per clause, at the first offset outside. -/
theorem witness_OnlyOutsideWindowStops :
    (∃ (s : State) (v : Byte) (es : List HostEvent), s.host = HostEvent.write 0x200 v :: es ∧
      step s = .fault (.outsideWindow 0x200)) ∧
    (∃ (s : State) (es : List HostEvent), s.host = HostEvent.read 0x200 :: es) ∧
    ∃ (s : State) (es : List HostEvent), s.host = HostEvent.writeReadData 0x200 :: es :=
  ⟨⟨State.reset.setHost [.write 0x200 0x01], 0x01, [], rfl, rfl⟩, ⟨State.reset.setHost [.read 0x200], [], rfl⟩,
    State.reset.setHost [.writeReadData 0x200], [], rfl⟩

/-- Every clause's first and last offsets, on a state in canonical form; no offset has two of the values. -/
theorem witness_HostByteAccess :
    (Memory.wf packedAck.inBuf ∧ Memory.wf packedAck.outBuf ∧ Memory.wf packedAck.fd.payload) ∧
    (∀ off ∈ [0x001, 0x002, 0x005, 0x020, 0x07F, 0x100, 0x17F, 0x003, 0x008, 0x004, 0x006, 0x007, 0x009, 0x01F, 0x080,
      0x0FF, 0x180, 0x1FF], off < 0x200 ∧ off ≠ 0x000) ∧
    (∀ off ∈ [0x001, 0x005, 0x020, 0x07F, 0x100, 0x17F], nextOf (hostWrite off 0xFF packedAck) = packedAck) ∧
    (nextOf (hostWrite 0x003 0xFF packedAck)).window 0x003 = some 0x07 ∧
    (nextOf (hostWrite 0x008 0xFF packedAck)).window 0x008 = some 0x7F ∧
    ∀ off ∈ [0x004, 0x006, 0x009, 0x01F, 0x080, 0x0FF, 0x180, 0x1FF],
      (nextOf (hostWrite off 0xFF packedAck)).window off = some 0xFF := by
  decide +kernel

/-- The first and last reserved offsets, the last offset of the window and the first outside it. -/
theorem witness_ReservedOffsetsReadZero :
    (∀ off ∈ [0x022, 0x07F], 0x022 ≤ off ∧ off < 0x080) ∧ packedAck.window 0x1FF = some 0x00 ∧
    packedAck.window 0x200 = none := by decide +kernel

theorem witness_BufferWindows : (∀ a ∈ [0, 127], a < 128) ∧ packedAck.window 0x104 = some 0xC1 := by decide +kernel

theorem witness_CtrlKeepsThreeBits : ∃ (i : Instr) (s t : State), exec i s = .next t ∧ s.ctrl = 0b011 :=
  ⟨.unpack, ackFrame, _, rfl, rfl⟩

/-- Each clause's premise; the outcome is V-U5's SUCCESS and V-PK10's FRAME_SIZE_ERROR. -/
theorem witness_ResultHoldsTheOutcome :
    (∃ s t : State, exec .unpack s = .next t ∧ t.result = 0x00 ∧ outcomeOf .unpack s = some .success) ∧
    (∃ s t : State, exec .pack s = .next t ∧ t.result = 0x02 ∧ outcomeOf .pack s = some .frameSizeError) ∧
    (∃ s t : State, exec .nop s = .next t) ∧
    (∃ (s t : State) (es : List HostEvent), s.host = HostEvent.write 0x000 0x05 :: es ∧ step s = .next t) ∧
    (∃ (s t : State) (es : List HostEvent), s.host = HostEvent.reset :: es ∧ step s = .next t) ∧
    ∃ s t : State, step s = .next t ∧ t.result = 0xFF :=
  ⟨⟨ackFrame, _, rfl, by decide +kernel, by decide +kernel⟩,
    ⟨described 0x0001 { FrameDesc.zero with plen := 125 }, _, rfl, by decide +kernel, by decide +kernel⟩,
    ⟨packedAck, _, rfl⟩, ⟨packedAck.setHost [.write 0x000 0x05], _, [], rfl, rfl⟩,
    ⟨packedAck.setHost [.reset], _, [], rfl, rfl⟩, packedAck.setHost [.reset], _, rfl, rfl⟩

theorem witness_CopyLoopsOutputBack :
    (Memory.wf packedAck.inBuf ∧ Memory.wf packedAck.outBuf ∧ Memory.wf packedAck.fd.payload) ∧ 0 ≤ 128 ∧ 128 ≤ 128 := by
  decide

theorem witness_ResolveOldVersions :
    ∃ (fver : FrameVersion) (dam sam : AddrMode), (fver = .v00 ∨ fver = .v01) ∧ dam ≠ .reserved ∧ sam ≠ .reserved :=
  ⟨.v01, .short, .extended, by decide⟩

/-- A row after one that does not match; and a table with no matching row. -/
theorem witness_ResolveTakesFirstMatch :
    (∃ r q : PanIdRow, r.dam ≠ .reserved ∧ r.sam ≠ .reserved ∧ (q.dam, q.sam, q.panc) ≠ (r.dam, r.sam, r.panc)) ∧
    ∀ q ∈ [PanIdRow.mk .none .none false false false], (q.dam, q.sam, q.panc) ≠ (.short, .short, true) :=
  ⟨⟨⟨.short, .short, true, true, false⟩, ⟨.none, .none, false, false, false⟩, by decide⟩, by decide⟩

theorem witness_ResolveFullTable :
    ∃ (fver : FrameVersion) (dam sam : AddrMode), fver ≠ .v11 ∧ dam ≠ .reserved ∧ sam ≠ .reserved :=
  ⟨.v10, .extended, .extended, by decide⟩

/-- V-RS4, V-RS15, V-RS16 and V-RS17, one per clause. -/
theorem witness_ResolveCommand :
    ((described 0xA841 .zero).fd.fc.frameVersion ≠ .v11 ∧ (described 0xA841 .zero).fd.fc.dstAddrMode ≠ .reserved ∧
      (described 0xA841 .zero).fd.fc.srcAddrMode ≠ .reserved) ∧
    (described 0x3001 .zero).fd.fc.frameVersion = .v11 ∧
    ((described 0x0401 .zero).fd.fc.frameVersion ≠ .v11 ∧ (described 0x0401 .zero).fd.fc.dstAddrMode = .reserved) ∧
    (described 0x4001 .zero).fd.fc.frameVersion ≠ .v11 ∧ (described 0x4001 .zero).fd.fc.srcAddrMode = .reserved := by
  decide +kernel

/-- The last length of the first clause and the first of the second. -/
theorem witness_Crc16Command :
    ({ State.reset with inLen := 128 } : State).inLen.toNat ≤ 128 ∧
    128 < ({ State.reset with inLen := 129 } : State).inLen.toNat := by decide

theorem witness_CrcDetectsOneBit : ∀ j ∈ [0, 7], j < 8 := by decide

theorem witness_CrcIsLinear : [0x31#8, 0x00].length = [0xFF#8, 0x80].length := rfl

/-- One failing state per clause: V-U27, V-U23, V-PK2, V-PK4, V-RS15, V-CRC15. -/
theorem witness_FailureEffects :
    (∃ s t : State, exec .unpack s = .next t ∧ t.result = 0x01) ∧
    (∃ s t : State, exec .unpack s = .next t ∧ t.result ≠ 0x00 ∧ t.result ≠ 0x01) ∧
    (∃ s t : State, exec .pack s = .next t ∧ t.result = 0x01) ∧
    (∃ s t : State, exec .pack s = .next t ∧ t.result ≠ 0x00 ∧ t.result ≠ 0x01) ∧
    (∃ s t : State, exec .resolve s = .next t ∧ t.result ≠ 0x00) ∧
    ∃ s t : State, exec .crc16 s = .next t ∧ t.result ≠ 0x00 :=
  ⟨⟨{ ackFrame with ctrl := 0b010 }, _, rfl, by decide +kernel⟩,
    ⟨received 0b011 [0x02, 0x00, 0x07, 0x00, 0x00], _, rfl, by decide +kernel⟩,
    ⟨{ ackToPack with ctrl := 0b100 }, _, rfl, by decide +kernel⟩, ⟨described 0x3001 .zero, _, rfl, by decide +kernel⟩,
    ⟨described 0x3001 .zero, _, rfl, by decide +kernel⟩, { State.reset with inLen := 200 }, _, rfl, by decide +kernel⟩

/-- V-U5, whose length is the least one its header allows. -/
theorem witness_UnpackSucceeds :
    ackFrame.inValid = true ∧ ackFrame.fdValid = true ∧ 2 ≤ ackFrame.inLen.toNat ∧ ackFrame.inLen.toNat ≤ 128 ∧
    ((wireFc ackFrame.inBuf).frameVersion ≠ .v11 ∧ (wireFc ackFrame.inBuf).frameType = .ack ∧
      (wireFc ackFrame.inBuf).dstAddrMode ≠ .reserved ∧ (wireFc ackFrame.inBuf).srcAddrMode ≠ .reserved ∧
      (wireFc ackFrame.inBuf).securityEnabled = false ∧ (wireFc ackFrame.inBuf).iePresent = false) ∧
    hdrLen (wireFc ackFrame.inBuf) (fcPresence (wireFc ackFrame.inBuf)) + 2 = ackFrame.inLen.toNat ∧
    bothNone (wireFc ackFrame.inBuf) = false ∧
    crc16 standardCrc (ackFrame.inBuf.readBytes 0 (ackFrame.inLen.toNat - 2)) =
      leValue 16 (ackFrame.inBuf.readBytes (ackFrame.inLen.toNat - 2) 2) := by decide +kernel

/-- V-U18, V-U38, V-U17 and V-U5: each clause's premise holds on one of them. -/
theorem witness_UnpackStatusLaws :
    (∃ s t : State, exec .unpack s = .next t ∧ t.result = 0x00 ∧ t.dpanInferred = true ∧ t.spanPresent = true) ∧
    (∃ s t : State, exec .unpack s = .next t ∧ t.result = 0x00 ∧ t.spanInferred = true ∧ t.dpanPresent = true) ∧
    (∃ s t : State, exec .unpack s = .next t ∧ t.result = 0x00 ∧ t.dpanPresent = false ∧ t.dpanInferred = false) ∧
    ∃ s t : State, exec .unpack s = .next t ∧ t.result = 0x00 ∧ t.spanPresent = false ∧ t.spanInferred = false :=
  ⟨⟨inferringFrame, _, rfl, by decide +kernel⟩, ⟨compressedFrame, _, rfl, by decide +kernel⟩,
    ⟨beaconFrame, _, rfl, by decide +kernel⟩, ackFrame, _, rfl, by decide +kernel⟩

set_option maxRecDepth 20000 in
/-- V-U17, with a payload; and a frame of 128 zero payload bytes less four, of the shortest header. -/
theorem witness_UnpackPayloadAndFcs :
    (∃ s t : State, exec .unpack s = .next t ∧ t.result = 0x00 ∧ t.fd.plen = 1) ∧
    ∃ s t : State, exec .unpack s = .next t ∧ t.result = 0x00 ∧ t.fd.plen.toNat = 124 :=
  ⟨⟨beaconFrame, _, rfl, by decide +kernel⟩,
    received 0b011 (([0x02, 0x01] ++ List.replicate 124 0x00) ++
      bytesLE 2 (crc16 standardCrc ([0x02, 0x01] ++ List.replicate 124 0x00))), _, rfl, by decide +kernel⟩

/-- V-PK16's frame and V-U30's, which differ in bit 7 and the FCS; and a PACK that succeeds. -/
theorem witness_UnpackIgnoresBitSeven :
    (∃ s s' t t' : State, s'.ctrl = s.ctrl ∧ s'.inLen = s.inLen ∧ s'.inBuf.read 0 = s.inBuf.read 0 ^^^ 0x80 ∧
      s'.inBuf.read 1 = s.inBuf.read 1 ∧ (∀ a, 2 ≤ a → a < s.inLen.toNat - 2 → s'.inBuf.read a = s.inBuf.read a) ∧
      exec .unpack s = .next t ∧ exec .unpack s' = .next t' ∧ t.result = 0x00 ∧ t'.result = 0x00) ∧
    ∃ s t : State, exec .pack s = .next t ∧ t.result = 0x00 := by
  refine ⟨⟨received 0b011 [0x02, 0x00, 0x09, 0x79, 0x28], received 0b011 [0x82, 0x00, 0x09, 0x95, 0x24], _, _, rfl, rfl,
    rfl, rfl, fun a h1 h2 => ?_, rfl, rfl, by decide +kernel, by decide +kernel⟩, ackToPack, _, rfl, by decide +kernel⟩
  have h3 : a < 3 := h2
  have h4 : a = 2 := by omega
  subst h4
  rfl

/-- Two states that differ in a byte past the frame, and where both stop at step 1. -/
theorem witness_UnpackReadsOnlyItsOperands :
    (∃ s s' t t' : State, s'.inValid = s.inValid ∧ s'.fdValid = s.fdValid ∧ s'.inLen = s.inLen ∧ s'.inBuf ≠ s.inBuf ∧
      (∀ a, a < s.inLen.toNat → s'.inBuf.read a = s.inBuf.read a) ∧ exec .unpack s = .next t ∧
      exec .unpack s' = .next t' ∧ t.result = 0x00) ∧
    ∃ s t : State, exec .unpack s = .next t ∧ t.result = 0x01 :=
  ⟨⟨ackFrame, { ackFrame with inBuf := ackFrame.inBuf.write 5 0x55 }, _, _, rfl, rfl, rfl, by decide +kernel,
    by decide +kernel, rfl, rfl, by decide +kernel⟩, { ackFrame with ctrl := 0b001 }, _, rfl, by decide +kernel⟩

theorem witness_UnpackIsIdempotent : ∃ s t : State, exec .unpack s = .next t ∧ t.result = 0x00 :=
  ⟨beaconFrame, _, rfl, by decide +kernel⟩

/-- V-U17 with the top bit of its one payload byte flipped. -/
theorem witness_UnpackDetectsPayloadBitFlip :
    ∃ (s s' t : State) (a j : Nat), exec .unpack s = .next t ∧ t.result = 0x00 ∧
      s.inLen.toNat - 2 - t.fd.plen.toNat ≤ a ∧ a < s.inLen.toNat - 2 ∧ j < 8 ∧ s'.ctrl = s.ctrl ∧
      s'.inLen = s.inLen ∧ (∀ b, b ≠ a → s'.inBuf.read b = s.inBuf.read b) ∧
      s'.inBuf.read a = s.inBuf.read a ^^^ (1#8 <<< j) := by
  have hw : Memory.wf beaconFrame.inBuf := by decide +kernel
  refine ⟨beaconFrame, { beaconFrame with inBuf := beaconFrame.inBuf.write 7 0x2A }, _, 7, 7, rfl, by decide +kernel,
    by decide +kernel, by decide +kernel, by decide, rfl, rfl, fun b hb => ?_, by decide +kernel⟩
  rw [Memory.read_write hw, if_neg hb]

/-- V-PK13's length: 127 bytes, the longest a frame to send can be. -/
theorem witness_PackSucceeds :
    (described 0x0102 { FrameDesc.zero with plen := 123 }).fdValid = true ∧
    (described 0x0102 { FrameDesc.zero with plen := 123 }).outValid = true ∧
    (fcDecode 0x0102).frameVersion ≠ .v11 ∧ (fcDecode 0x0102).frameType = .ack ∧
    (fcDecode 0x0102).dstAddrMode ≠ .reserved ∧ (fcDecode 0x0102).srcAddrMode ≠ .reserved ∧
    (fcDecode 0x0102).securityEnabled = false ∧ (fcDecode 0x0102).iePresent = false ∧
    bothNone (fcDecode 0x0102) = false ∧ hdrLen (fcDecode 0x0102) (fcPresence (fcDecode 0x0102)) + 123 + 2 = 127 := by
  decide +kernel

/-- The shortest frame PACK makes; version 0b10 with both modes none and compression, whose PAN ID makes it 6 bytes
(30_encoding.md R89, row 2 of 41_resolver.md R134); Scenario A's 13 bytes; and V-PK4. -/
theorem witness_OutLenBounds :
    (∃ (i : Instr) (s t : State), i ≠ .pack ∧ exec i s = .next t) ∧
    (∃ s t : State, exec .pack s = .next t ∧ t.result = 0x00 ∧ t.outLen = 4) ∧
    (∃ s t : State, exec .pack s = .next t ∧ t.result = 0x00 ∧ t.outLen = 6) ∧
    (∃ s t : State, exec .pack s = .next t ∧ t.result = 0x00 ∧ t.outLen = 13) ∧
    ∃ s t : State, exec .pack s = .next t ∧ t.result ≠ 0x00 ∧ t.result ≠ 0x01 :=
  ⟨⟨.crc16, ackFrame, _, by decide, rfl⟩, ⟨described 0x0102 .zero, _, rfl, by decide +kernel⟩,
    ⟨described 0x2140 .zero, _, rfl, by decide +kernel⟩, ⟨scenarioA, _, rfl, by decide +kernel⟩,
    described 0x3001 .zero, _, rfl, by decide +kernel⟩

/-- Two states that differ in FD_FCS and in a payload byte past FD_PLEN. -/
theorem witness_PackReadsOnlyItsOperands :
    ∃ s s' t t' : State, s'.fdValid = s.fdValid ∧ s'.outValid = s.outValid ∧ s'.fd.payload ≠ s.fd.payload ∧
      s'.fd = { s.fd with fcs := s'.fd.fcs, payload := s'.fd.payload } ∧
      (∀ a, a < s.fd.plen.toNat → s'.fd.payload.read a = s.fd.payload.read a) ∧ exec .pack s = .next t ∧
      exec .pack s' = .next t' ∧ t.result = 0x00 :=
  ⟨scenarioA, scenarioA.setFd { scenarioA.fd with fcs := 0x1234, payload := [(0, 0x55)] }, _, _, rfl, rfl, by decide,
    rfl, fun a ha => absurd ha (Nat.not_lt_zero a), rfl, rfl, by decide +kernel⟩

/-- Scenario A, looped back (program P2). -/
theorem witness_PackThenUnpackRoundTrip :
    ∃ s t u : State, exec .pack s = .next t ∧ t.result = 0x00 ∧ u.inLen = t.outLen ∧
      (∀ a, a < t.outLen.toNat → u.inBuf.read a = t.outBuf.read a) ∧ u.inValid = true ∧ u.fdValid = true :=
  ⟨scenarioA, packWith standard scenarioA, { packWith standard scenarioA with
    ctrl := 0b111, inLen := (packWith standard scenarioA).outLen, inBuf := (packWith standard scenarioA).outBuf },
    rfl, by decide +kernel, rfl, fun _ _ => rfl, rfl, rfl⟩

theorem witness_CommandFrames (i : Instr) : ∃ s t : State, exec i s = .next t := by
  cases i <;> exact ⟨scenarioA, _, rfl⟩

/-- The longest header: version 0b00, both addresses extended, no compression (V-PK25). -/
theorem witness_HeaderLengthBounds :
    acceptedFc (fcDecode 0xCC01) ∧ hdrLen (fcDecode 0xCC01) (fcPresence (fcDecode 0xCC01)) = 23 := by
  unfold acceptedFc
  decide +kernel

/-- A state that meets the invariant with a whole frame in OUT_BUF, and a step of it. -/
theorem witness_StepKeepsInvariant : packedAck.Inv ∧ ∃ t, step packedAck = .next t := by
  refine ⟨⟨⟨by decide, by decide, by decide⟩, .inl (by decide), ⟨by decide, by decide⟩,
    .inr ⟨by decide, by decide, fun a ha => ?_, by decide +kernel⟩⟩, _, rfl⟩
  have h : 5 ≤ a := ha
  have hm : ∀ c ∈ packedAck.outBuf, c.1 < 5 := by decide
  exact Memory.read_above fun c hc => Nat.lt_of_lt_of_le (hm c hc) h

/-- V-U18 and V-U38 (inferring), Scenario A and V-RS4 (present), V-U23 and V-U27 (failing), V-CRC15, NOP, the first reserved
code, and accesses at both ends of the window. -/
theorem witness_StatusRegister :
    (∃ s t : State, exec .unpack s = .next t ∧ t.result = 0x00 ∧ t.dpanInferred = true) ∧
    (∃ s t : State, exec .unpack s = .next t ∧ t.result = 0x00 ∧ t.spanInferred = true) ∧
    (∃ s t : State, exec .pack s = .next t ∧ t.result = 0x00 ∧ t.status = 0x3) ∧
    (∃ s t : State, exec .resolve s = .next t ∧ t.result = 0x00 ∧ t.status = 0x1) ∧
    (∃ s t : State, exec .unpack s = .next t ∧ t.result = 0x07) ∧
    (∃ s t : State, exec .unpack s = .next t ∧ t.result = 0x01) ∧
    (∃ s t : State, exec .crc16 s = .next t ∧ t.result = 0x02) ∧ (∃ s t : State, exec .nop s = .next t) ∧
    (∃ s t : State, hostWrite 0x000 0x05 s = .next t) ∧ (∃ s t : State, hostWrite 0x001 0xFF s = .next t) ∧
    (∃ s t : State, hostWrite 0x1FF 0xFF s = .next t) ∧ ∃ s t : State, hostRead 0x1FF s = .next t :=
  ⟨⟨inferringFrame, _, rfl, by decide +kernel⟩, ⟨compressedFrame, _, rfl, by decide +kernel⟩,
    ⟨scenarioA, _, rfl, by decide +kernel⟩, ⟨described 0xA841 .zero, _, rfl, by decide +kernel⟩,
    ⟨received 0b011 [0x02, 0x00, 0x07, 0x00, 0x00], _, rfl, by decide +kernel⟩,
    ⟨{ ackFrame with ctrl := 0b010 }, _, rfl, by decide +kernel⟩,
    ⟨{ State.reset with inLen := 200 }, _, rfl, by decide +kernel⟩, ⟨packedAck, _, rfl⟩, ⟨packedAck, _, rfl⟩,
    ⟨packedAck, _, rfl⟩, ⟨packedAck, _, rfl⟩, packedAck, _, rfl⟩

end Sys2Proof.Tests
end

section
/-! SUPPORT. The window map read by register: where each register lies, what a byte read answers, and the value the host
assembles from consecutive byte reads (10_state.md section 3, 20_memory.md R61, R67). -/

namespace Sys2Proof.Machine

/-- The row of the window map that holds a register. -/
def Reg.row (r : Reg) : WindowRow := (windowMap.find? (·.reg = r)).getD ⟨r, 0, 0⟩

theorem Reg.row_of_mem : ∀ row ∈ windowMap, row.reg.row = row := by decide

theorem Reg.row_mem (r : Reg) : r.row ∈ windowMap := by cases r <;> decide

theorem Reg.row_reg (r : Reg) : r.row.reg = r := by cases r <;> rfl

/-- An offset belongs to byte `i` of a register exactly when it is the `i`-th offset of the register's row. -/
theorem locate_eq_some_iff {off : Nat} {r : Reg} {i : Nat} :
    locate off = some (r, i) ↔ i < r.row.size ∧ off = r.row.base + i := by
  constructor
  · intro h
    obtain ⟨row, hm, rfl, hi, ho⟩ := locate_eq_some h
    rw [Reg.row_of_mem row hm]
    exact ⟨hi, ho⟩
  · rintro ⟨hi, rfl⟩
    rw [locate_of_mem r.row_mem (by omega), Reg.row_reg, Nat.add_sub_cancel_left]

theorem locate_of_lt {off : Nat} (h : off < 0x200) : ∃ r i, locate off = some (r, i) := by
  rcases hl : locate off with _ | ⟨r, i⟩
  · exact absurd (locate_eq_none.1 hl) (Nat.not_le_of_lt h)
  · exact ⟨r, i, rfl⟩

/-- CMD is the one byte at offset 0x000. -/
theorem locate_cmd {off i : Nat} (h : locate off = some (.cmd, i)) : off = 0x000 := by
  have h : i < 1 ∧ off = 0 + i := locate_eq_some_iff.1 h
  omega

theorem locate_reserved {off : Nat} (h1 : 0x022 ≤ off) (h2 : off < 0x080) :
    locate off = some (.reserved, off - 0x022) :=
  locate_eq_some_iff.2 ⟨show off - 0x022 < 0x5E by omega, show off = 0x022 + (off - 0x022) by omega⟩

theorem window_of_locate {off : Nat} {r : Reg} {i : Nat} (h : locate off = some (r, i)) (s : State) :
    s.window off = some (readReg r i s) := by
  rw [State.window, h, Option.map_some]

/-- Byte `i` of a register, read at its offset. -/
theorem window_row (s : State) (r : Reg) {i : Nat} (h : i < r.row.size) :
    s.window (r.row.base + i) = some (readReg r i s) :=
  window_of_locate (locate_eq_some_iff.2 ⟨h, rfl⟩) s

theorem window_eq_none_iff (s : State) (off : Nat) : s.window off = none ↔ 0x200 ≤ off := by
  rw [State.window, Option.map_eq_none_iff, locate_eq_none]

/-- The byte the host read last is no byte of the window (log entry 3). -/
theorem window_setReadData (s : State) (b : Byte) (off : Nat) : (s.setReadData b).window off = s.window off := by
  rcases hl : locate off with _ | ⟨r, i⟩
  · simp [State.window, hl]
  · rw [window_of_locate hl, window_of_locate hl]
    cases r <;> rfl

theorem mapM_eq_some_map {α β : Type} {f : α → Option β} {g : α → β} {l : List α} (h : ∀ a ∈ l, f a = some (g a)) :
    l.mapM f = some (l.map g) := by
  induction l with
  | nil => rfl
  | cons a l ih =>
    obtain ⟨ha, hl⟩ := List.forall_mem_cons.1 h
    simp [ha, ih hl]

/-- Bytes that lie least significant first are read as the value they make up. -/
theorem windowLE_of_bytes {s : State} {n off : Nat} {v : BitVec (8 * n)}
    (h : ∀ i, i < n → s.window (off + i) = some (byteAt v i)) : s.windowLE n off = some v := by
  have hm : ((List.range n).mapM fun i => s.window (off + i)) = some (bytesLE n v) :=
    mapM_eq_some_map fun i hi => h i (List.mem_range.1 hi)
  rw [State.windowLE, hm, Option.map_some, leValue_bytesLE n v (Nat.le_refl _)]

/-- A register that reads as the bytes of one value is read whole as that value. -/
theorem windowLE_row {s : State} {r : Reg} {n : Nat} {v : BitVec (8 * n)} (hn : r.row.size = n)
    (h : ∀ i, readReg r i s = byteAt v i) : s.windowLE n r.row.base = some v :=
  windowLE_of_bytes fun i hi => by rw [window_row s r (hn ▸ hi), h]

end Sys2Proof.Machine
end

section
/-! SUPPORT. Frame-control bit 7 through FcDecode and FcEncode, and a byte write to half of FD_FC (10_state.md R35,
40_frame_control.md R112). -/

namespace Sys2Proof

theorem byteAt_and {w : Nat} (a b : BitVec w) (i : Nat) : byteAt (a &&& b) i = byteAt a i &&& byteAt b i :=
  BitVec.extractLsb'_and

/-- FcEncode after FcDecode clears bit 7 and nothing else. -/
theorem fcEncode_fcDecode (w : Half) : fcEncode (fcDecode w) = w &&& 0xFF7F := by
  simp only [fcEncode, fcDecode, FrameType.bits_ofBits, AddrMode.bits_ofBits, FrameVersion.bits_ofBits, flagAt]
  apply BitVec.eq_of_getLsbD_eq
  intro k hk
  interval_cases k <;> simp

theorem fcEncode_bit_seven (fc : FrameControl) : (fcEncode fc).getLsbD 7 = false := by
  simp [fcEncode, flagAt]

theorem fcEncode_and_mask (fc : FrameControl) : fcEncode fc &&& 0xFF7F = fcEncode fc := by
  apply BitVec.eq_of_getLsbD_eq
  intro k hk
  rw [BitVec.getLsbD_and]
  by_cases h7 : k = 7
  · rw [h7, fcEncode_bit_seven, Bool.false_and]
  · have hmask : (0xFF7F : Half).getLsbD k = true := by
      interval_cases k <;> first | rfl | exact absurd rfl h7
    rw [hmask, Bool.and_true]

/-- A byte write to half of FD_FC: the byte written less bit 7 of the low half, and the other half as it was. -/
theorem byteAt_fcEncode_write (fc : FrameControl) (v : Byte) {i j : Nat} (hi : i < 2) (hj : j < 2) :
    byteAt (fcEncode (fcDecode (setByteAt (fcEncode fc) i v))) j =
      if j = i then v &&& (if i = 0 then 0x7F else 0xFF) else byteAt (fcEncode fc) j := by
  have hmask : byteAt (0xFF7F : Half) i = if i = 0 then 0x7F else 0xFF := by
    interval_cases i <;> rfl
  rw [fcEncode_fcDecode, byteAt_and, byteAt_setByteAt _ _ (by omega) (by omega)]
  by_cases hji : j = i
  · rw [if_pos hji, if_pos hji, hji, hmask]
  · rw [if_neg hji, if_neg hji, ← byteAt_and, fcEncode_and_mask]

end Sys2Proof
end

section
/-! SUPPORT. What a byte write stores, said once by the mask of the bits that a byte holds, and what it leaves
(10_state.md R46). -/

namespace Sys2Proof.Machine

theorem and_ff (v : Byte) : v &&& 0xFF = v := BitVec.and_allOnes

theorem setWidth_three (v : Byte) : (v.setWidth 3).setWidth 8 = v &&& 0x07 := by
  apply BitVec.eq_of_getLsbD_eq
  intro k hk
  interval_cases k <;> simp

/-- The bits that a host write of byte `i` of a register stores: none where it is read-only or reserved, bits 2:0 of CTRL
(10_state.md R30), all but bit 7 of the low byte of FD_FC (R35), all elsewhere. -/
def Reg.storedBits (r : Reg) (i : Nat) : Byte :=
  match r with
  | .result | .status | .outLen | .crcOut | .reserved | .outBuf => 0x00
  | .ctrl => 0x07
  | .fdFc => if i = 0 then 0x7F else 0xFF
  | .cmd | .inLen | .fdPlen | .fdSeq | .fdDpan | .fdSpan | .fdFcs | .fdDaddr | .fdSaddr | .inBuf | .fdPayload => 0xFF

/-- The mask at each offset of the window but CMD's. -/
theorem storedBits_of_locate {off : Nat} {r : Reg} {i : Nat} (h : locate off = some (r, i)) :
    (off = 0x001 ∨ off = 0x002 ∨ off = 0x005 ∨ (0x020 ≤ off ∧ off < 0x080) ∨ (0x100 ≤ off ∧ off < 0x180) →
      r.storedBits i = 0x00) ∧
    (off = 0x003 → r.storedBits i = 0x07) ∧ (off = 0x008 → r.storedBits i = 0x7F) ∧
    (off = 0x004 ∨ off = 0x006 ∨ off = 0x007 ∨ (0x009 ≤ off ∧ off < 0x020) ∨ (0x080 ≤ off ∧ off < 0x100) ∨
      0x180 ≤ off → r.storedBits i = 0xFF) := by
  obtain ⟨hi, rfl⟩ := locate_eq_some_iff.1 h
  cases r
  case fdFc =>
    by_cases h0 : i = 0
    · simp [Reg.row, windowMap, Reg.storedBits, h0]
    · simp [Reg.row, windowMap, Reg.storedBits, h0] at hi ⊢
      omega
  all_goals
    simp [Reg.row, windowMap, Reg.storedBits] at hi ⊢
    omega

theorem writeReg_of_not_stored {r : Reg} {i : Nat} (h : r.storedBits i = 0x00) (v : Byte) (s : State) :
    writeReg r i v s = s := by
  cases r
  case result | status | outLen | crcOut | reserved | outBuf => rfl
  case fdFc => by_cases h0 : i = 0 <;> simp [Reg.storedBits, h0] at h
  all_goals simp [Reg.storedBits] at h

/-- A write to one register is read in no other: no two registers share a field of the state. -/
theorem readReg_writeReg_of_ne {r q : Reg} (h : q ≠ r) (i j : Nat) (v : Byte) (s : State) :
    readReg q j (writeReg r i v s) = readReg q j s := by
  cases r <;> cases q <;> first | rfl | exact absurd rfl h

/-- Within one register, the byte written reads back under its mask and the others are as before. -/
theorem readReg_writeReg_same {r : Reg} {s : State} (hs : s.memWf) (v : Byte) {i j : Nat} (hi : i < r.row.size)
    (hj : j < r.row.size) (hst : r.storedBits i ≠ 0x00) :
    readReg r j (writeReg r i v s) = if j = i then v &&& r.storedBits i else readReg r j s := by
  obtain ⟨hin, -, hpay⟩ := hs
  have hff {x : Byte} : (if j = i then v else x) = if j = i then v &&& 0xFF else x := by rw [and_ff]
  cases r
  case result | status | outLen | crcOut | reserved | outBuf => exact absurd rfl hst
  case cmd | inLen | fdPlen | fdSeq =>
    have hi : i < 1 := hi
    have hj : j < 1 := hj
    exact (if_pos (by omega)).symm.trans hff
  case ctrl =>
    have hi : i < 1 := hi
    have hj : j < 1 := hj
    rw [if_pos (by omega)]
    exact setWidth_three v
  case fdFc => exact byteAt_fcEncode_write s.fd.fc v hi hj
  case fdDpan | fdSpan | fdFcs =>
    have hi : i < 2 := hi
    have hj : j < 2 := hj
    exact (byteAt_setByteAt _ _ (by omega) (by omega)).trans hff
  case fdDaddr | fdSaddr =>
    have hi : i < 8 := hi
    have hj : j < 8 := hj
    exact (byteAt_setByteAt _ _ (by omega) (by omega)).trans hff
  case inBuf => exact (Memory.read_write hin ..).trans hff
  case fdPayload => exact (Memory.read_write hpay ..).trans hff

theorem window_writeReg_same {off : Nat} {r : Reg} {i : Nat} (h : locate off = some (r, i)) (v : Byte) {s : State}
    (hs : s.memWf) (hst : r.storedBits i ≠ 0x00) :
    (writeReg r i v s).window off = some (v &&& r.storedBits i) := by
  have hi := (locate_eq_some_iff.1 h).1
  rw [window_of_locate h, readReg_writeReg_same hs v hi hi hst, if_pos rfl]

theorem window_writeReg_of_ne {off o : Nat} {r : Reg} {i : Nat} (h : locate off = some (r, i)) (ho : o ≠ off) (v : Byte)
    {s : State} (hs : s.memWf) : (writeReg r i v s).window o = s.window o := by
  rcases hl : locate o with _ | ⟨q, j⟩
  · simp [State.window, hl]
  rw [window_of_locate hl, window_of_locate hl]
  obtain ⟨hi, rfl⟩ := locate_eq_some_iff.1 h
  obtain ⟨hj, rfl⟩ := locate_eq_some_iff.1 hl
  by_cases hq : q = r
  · subst hq
    by_cases hst : q.storedBits i = 0x00
    · rw [writeReg_of_not_stored hst]
    · rw [readReg_writeReg_same hs v hi hj hst, if_neg (by omega)]
  · rw [readReg_writeReg_of_ne hq]

theorem writeReg_readData (r : Reg) (i : Nat) (v : Byte) (s : State) : (writeReg r i v s).readData = s.readData := by
  cases r <;> rfl

theorem writeReg_result (r : Reg) (i : Nat) (v : Byte) (s : State) : (writeReg r i v s).result = s.result := by
  cases r <;> rfl

theorem writeReg_status (r : Reg) (i : Nat) (v : Byte) (s : State) : (writeReg r i v s).status = s.status := by
  cases r <;> rfl

/-- A host write away from CMD's offset runs no command. -/
theorem hostWrite_of_ne_cmd {off : Nat} {r : Reg} {i : Nat} (h : locate off = some (r, i)) (h0 : off ≠ 0x000) (v : Byte)
    (s : State) : hostWrite off v s = .next (writeReg r i v s) :=
  hostWrite_reg h fun hr => h0 (locate_cmd (hr ▸ h))

theorem hostWrite_ne_cmd_cases {off : Nat} {v : Byte} {s t : State} (h0 : off ≠ 0x000)
    (h : hostWrite off v s = .next t) : ∃ r i, locate off = some (r, i) ∧ t = writeReg r i v s := by
  rcases hl : locate off with _ | ⟨r, i⟩
  · rw [hostWrite, hl] at h
    cases h
  · rw [hostWrite_of_ne_cmd hl h0] at h
    cases h
    exact ⟨r, i, rfl, rfl⟩

theorem hostRead_of_window {off : Nat} {s : State} {b : Byte} (h : s.window off = some b) :
    hostRead off s = .next (s.setReadData b) := by
  rw [hostRead, h]

theorem hostRead_cases {off : Nat} {s t : State} (h : hostRead off s = .next t) : ∃ b, t = s.setReadData b := by
  rw [hostRead] at h
  split at h
  · cases h
  · cases h
    exact ⟨_, rfl⟩

end Sys2Proof.Machine
end

section
/-! SUPPORT. How a written code becomes a command: the decoder and `issueCommand` (10_state.md R27, 30_encoding.md R81,
R82). -/

namespace Sys2Proof.Machine

theorem decode_reserved {c : Byte} (h : 5 ≤ c.toNat) : decode [c] = .error (.reservedCommand c) := by
  have hne (k : Byte) (hk : k.toNat < 5) : c ≠ k := by rintro rfl; omega
  simp [decode, decodeCommand, hne, Except.map]

theorem decode_of_decodeTableWord {nbits w : Nat} {i : Instr} (h : decodeTableWord nbits w = some i) :
    decode [tableByte nbits w] = .ok (i, []) := by
  rcases hd : decodeCommand (tableByte nbits w) with e | j
  · simp [decodeTableWord, decode, hd, Except.map] at h
  · simpa [decodeTableWord, decode, hd, Except.map] using h

theorem issueCommand_of_decode {c : Byte} {i : Instr} (h : decode [c] = .ok (i, [])) (s : State) :
    issueCommand c s = exec i s := by
  rw [issueCommand, h]

theorem issueCommand_reserved {c : Byte} (h : 5 ≤ c.toNat) (s : State) :
    issueCommand c s = .next (unknownCommand s) := by
  rw [issueCommand, decode_reserved h]

/-- Whatever code is written, the command it runs completes and leaves CMD and the queue. -/
theorem issueCommand_frame (c : Byte) (s : State) :
    ∃ t, issueCommand c s = .next t ∧ t.cmd = s.cmd ∧ t.host = s.host := by
  rw [issueCommand]
  split
  · rename_i i rest hd
    obtain ⟨t, ht⟩ := exec_next i s
    obtain ⟨hcmd, -, -, -, hhost, -⟩ := exec_frame ht
    exact ⟨t, ht, hcmd, hhost⟩
  · exact ⟨_, rfl, rfl, rfl⟩

theorem step_cmd_write {s : State} {c : Byte} {es : List HostEvent} (h : s.host = HostEvent.write 0x000 c :: es) :
    step s = issueCommand c ((s.setHost es).setCmd c) :=
  (step_cons h).trans (hostWrite_cmd c _)

end Sys2Proof.Machine
end

section
/-! SUPPORT. The code each command ends with (10_state.md R28): the steps of a command end in the outcome that
Machine/Layout.lean states in closed form, and RESULT takes its number. -/

namespace Sys2Proof.Machine

/-- The code a run of steps ends with (00_scope.md R10): the first one raised, else SUCCESS. -/
def outcomeCode {α : Type} : Except ResultCode α → ResultCode
  | .error e => e
  | .ok _ => .success

@[simp] theorem outcomeCode_error {α : Type} (e : ResultCode) : outcomeCode (.error e : Except ResultCode α) = e := rfl

@[simp] theorem outcomeCode_ok {α : Type} (a : α) : outcomeCode (.ok a : Except ResultCode α) = .success := rfl

theorem rejectedType_iff (t : FrameType) :
    (t = .reserved ∨ t = .multipurpose ∨ t = .fragment ∨ t = .extended) ↔ 4 ≤ t.bits.toNat := by
  cases t <;> decide

/-- The frame-control tests as the sequencers write them, with what comes after them. -/
theorem getD_fcOutcome (fc : FrameControl) (e : ResultCode) :
    (fcOutcome fc).getD e =
      if fc.frameVersion = .v11 then .invalidFrameVersion
      else if fc.frameType = .reserved ∨ fc.frameType = .multipurpose ∨ fc.frameType = .fragment ∨
        fc.frameType = .extended then .unsupportedFrameType
      else if fc.dstAddrMode = .reserved ∨ fc.srcAddrMode = .reserved then .invalidAddressingMode
      else if fc.securityEnabled = true ∨ fc.iePresent = true then .unsupportedFeature
      else e := by
  simp only [fcOutcome, rejectedType_iff, apply_ite (Option.getD · e), Option.getD_some, Option.getD_none]

theorem outcomeCode_unpackSteps (s : State) : outcomeCode (unpackSteps standard s) = unpackOutcome s := by
  simp only [unpackSteps_standard, unpackOutcome, getD_fcOutcome, apply_ite outcomeCode, outcomeCode_error,
    outcomeCode_ok]

theorem outcomeCode_packSteps (s : State) : outcomeCode (packSteps standard s) = packOutcome s := by
  have hlen : packLength s.fd (fcPresence s.fd.fc) = hdrLen s.fd.fc (fcPresence s.fd.fc) + s.fd.plen.toNat + 2 := rfl
  simp only [packSteps_standard, packOutcome, getD_fcOutcome, apply_ite outcomeCode, outcomeCode_error,
    outcomeCode_ok, ← hlen]

/-- The resolver under the default table: its two guards, then an answer for every triple (41_resolver.md R130, R135). -/
theorem resolveFc_eq (fc : FrameControl) :
    resolveFc standard fc =
      if fc.frameVersion = .v11 then .error .invalidFrameVersion
      else if fc.dstAddrMode = .reserved ∨ fc.srcAddrMode = .reserved then .error .invalidAddressingMode
      else .ok (fcPresence fc) := by
  by_cases hg : fc.frameVersion ≠ .v11 ∧ ¬(fc.dstAddrMode = .reserved ∨ fc.srcAddrMode = .reserved)
  · obtain ⟨hv, hm⟩ := hg
    rw [if_neg hv, if_neg hm]
    exact resolveFc_standard hv (fun h => hm (.inl h)) (fun h => hm (.inr h))
  · simp only [resolveFc, resolve, raiseIf_bind]
    exact else_congr fun hv => else_congr fun hm => absurd ⟨hv, hm⟩ hg

theorem outcomeCode_resolveFc (s : State) : outcomeCode (resolveFc standard s.fd.fc) = resolveOutcome s := by
  simp only [resolveFc_eq, resolveOutcome, apply_ite outcomeCode, outcomeCode_error, outcomeCode_ok]

theorem outcomeCode_crc16Steps (s : State) : outcomeCode (crc16Steps standard s) = crc16Outcome s := by
  rw [crc16Steps, raiseIf_bind, apply_ite outcomeCode]
  rfl

theorem raise_result {i : Instr} (hi : i ≠ .nop) (e : ResultCode) (s : State) : (raise i e s).result = e.code := by
  cases i
  case nop => exact absurd rfl hi
  case unpack | pack => simp only [raise]; split <;> rfl
  case resolve | crc16 => rfl

/-- A command whose success stores SUCCESS leaves in RESULT the code its steps ended with. -/
theorem conclude_result {α : Type} {i : Instr} (hi : i ≠ .nop) {commit : α → State → State}
    (hc : ∀ a s, (commit a s).result = ResultCode.success.code) (r : Except ResultCode α) (s : State) :
    (conclude i commit r s).result = (outcomeCode r).code := by
  cases r with
  | error e => exact raise_result hi e s
  | ok a => exact hc a s

theorem exec_result {i : Instr} {s t : State} (h : exec i s = .next t) :
    t.result = ((outcomeOf i s).map ResultCode.code).getD s.result := by
  cases i <;> cases h
  case nop => rfl
  case unpack =>
    exact (conclude_result (by decide) (fun _ _ => rfl) _ s).trans (congrArg _ (outcomeCode_unpackSteps s))
  case pack => exact (conclude_result (by decide) (fun _ _ => rfl) _ s).trans (congrArg _ (outcomeCode_packSteps s))
  case resolve => exact (conclude_result (by decide) (fun _ _ => rfl) _ s).trans (congrArg _ (outcomeCode_resolveFc s))
  case crc16 => exact (conclude_result (by decide) (fun _ _ => rfl) _ s).trans (congrArg _ (outcomeCode_crc16Steps s))

theorem outcomeCode_le_seven {α : Type} {r : Except ResultCode α}
    (h : ∀ e, r = .error e → e ≠ .unknownCommand ∧ e ≠ .noResult) : (outcomeCode r).code.toNat ≤ 7 := by
  cases r with
  | ok a => exact Nat.zero_le _
  | error e =>
    obtain ⟨hunknown, hnone⟩ := h e rfl
    cases e
    case unknownCommand => exact absurd rfl hunknown
    case noResult => exact absurd rfl hnone
    all_goals simp [ResultCode.code]

/-- The outcome of a command is one of the codes 0x00 to 0x07. -/
theorem outcomeOf_le_seven {i : Instr} {s : State} {e : ResultCode} (h : outcomeOf i s = some e) :
    e.code.toNat ≤ 7 := by
  cases i <;> cases h
  case unpack =>
    rw [← outcomeCode_unpackSteps]
    exact outcomeCode_le_seven fun e he => (unpackSteps_error he).2
  case pack =>
    rw [← outcomeCode_packSteps]
    exact outcomeCode_le_seven fun e he => (packSteps_error he).2
  case resolve =>
    rw [← outcomeCode_resolveFc]
    refine outcomeCode_le_seven fun e he => ?_
    rcases resolveFc_error he with rfl | rfl <;> decide
  case crc16 =>
    unfold crc16Outcome
    split <;> decide

theorem exec_result_le_seven {i : Instr} {s t : State} (hi : i ≠ .nop) (h : exec i s = .next t) :
    t.result.toNat ≤ 7 := by
  rw [exec_result h]
  rcases ho : outcomeOf i s with _ | e
  · cases i
    case nop => exact absurd rfl hi
    all_goals cases ho
  · exact outcomeOf_le_seven ho

/-- A host write leaves RESULT or brings a code up to UNKNOWN_COMMAND there. -/
theorem hostWrite_result {off : Nat} {v : Byte} {s t : State} (h : hostWrite off v s = .next t) :
    t.result = s.result ∨ t.result.toNat ≤ 8 := by
  rcases hostWrite_cases h with ⟨r, i, -, -, rfl⟩ | ⟨i, hi⟩ | rfl
  · exact .inl (writeReg_result ..)
  · by_cases hn : i = .nop
    · subst hn
      exact .inl (exec_result hi)
    · exact .inr (Nat.le_succ_of_le (exec_result_le_seven hn hi))
  · exact .inr (Nat.le_refl 8)

/-- Only a reset can bring NO_RESULT to RESULT. -/
theorem runEvent_result {e : HostEvent} {s t : State} (he : e ≠ .reset) (h : runEvent e s = .next t) :
    t.result = s.result ∨ t.result.toNat ≤ 8 := by
  cases e with
  | write off v => exact hostWrite_result h
  | read off =>
    obtain ⟨b, rfl⟩ := hostRead_cases h
    exact .inl rfl
  | writeReadData off => exact hostWrite_result h
  | reset => exact absurd rfl he

end Sys2Proof.Machine
end

section
/-! SUPPORT. UNPACK twice (44_facades.md R216): its steps read nothing that it writes, and ending the same way twice is
ending that way once. -/

namespace Sys2Proof.Machine

theorem exec_unpack_eq (s : State) :
    exec .unpack s = .next (conclude .unpack commitUnpack (unpackSteps standard s) s) := rfl

/-- The steps of UNPACK read CTRL, IN_LEN and IN_BUF only (44_facades.md R200). -/
theorem unpackSteps_congr {s s' : State} (hc : s'.ctrl = s.ctrl) (hn : s'.inLen = s.inLen) (hb : s'.inBuf = s.inBuf)
    (cfg : Config) : unpackSteps cfg s' = unpackSteps cfg s := by
  cases s; cases s'; cases hc; cases hn; cases hb
  rfl

theorem conclude_unpack_idem (r : Except ResultCode Unpacked) (s : State) :
    conclude .unpack commitUnpack r (conclude .unpack commitUnpack r s) = conclude .unpack commitUnpack r s := by
  cases r with
  | ok u => rfl
  | error e =>
    show raise .unpack e (raise .unpack e s) = raise .unpack e s
    by_cases he : e = .parameterError
    · rw [raise_unpack, raise_unpack, if_pos he, if_pos he]; rfl
    · rw [raise_unpack, raise_unpack, if_neg he, if_neg he]; rfl

end Sys2Proof.Machine
end

section
/-! SUPPORT. OUT_LEN (10_state.md R32): who writes it, and when the header is the shortest one (30_encoding.md R89). -/

namespace Sys2Proof.Machine

theorem seqLen_eq_zero_iff (suppressed : Bool) : seqLen suppressed = 0 ↔ suppressed = true := by
  cases suppressed <;> simp [seqLen]

theorem panIdLen_eq_zero_iff (present : Bool) : panIdLen present = 0 ↔ present = false := by
  cases present <;> simp [panIdLen]

theorem alen_eq_zero_iff {m : AddrMode} (h : m ≠ .reserved) : alen m = 0 ↔ m = .none := by
  cases m
  case reserved => exact absurd rfl h
  all_goals simp [alen]

theorem two_le_hdrLen (fc : FrameControl) (p : Presence) : 2 ≤ hdrLen fc p := by
  unfold hdrLen; omega

/-- The header is the frame control alone exactly when every other field of it is absent. -/
theorem hdrLen_eq_two_iff {fc : FrameControl} (hd : fc.dstAddrMode ≠ .reserved) (hs : fc.srcAddrMode ≠ .reserved)
    (p : Presence) :
    hdrLen fc p = 2 ↔ fc.seqNumSuppressed = true ∧ fc.dstAddrMode = .none ∧ fc.srcAddrMode = .none ∧
      p = ⟨false, false⟩ := by
  obtain ⟨dpan, span⟩ := p
  simp only [Presence.mk.injEq, ← seqLen_eq_zero_iff, ← panIdLen_eq_zero_iff, ← alen_eq_zero_iff hd,
    ← alen_eq_zero_iff hs, hdrLen]
  omega

theorem exec_outLen {i : Instr} {s t : State} (hi : i ≠ .pack) (h : exec i s = .next t) : t.outLen = s.outLen := by
  cases i with
  | nop => cases h; rfl
  | unpack => rcases unpack_cases h with ⟨-, rfl⟩ | ⟨e, -, -, rfl⟩ | ⟨u, -, rfl⟩ <;> rfl
  | pack => exact absurd rfl hi
  | resolve => rcases resolve_cases h with ⟨e, -, rfl⟩ | ⟨p, -, rfl⟩ <;> rfl
  | crc16 => rcases crc16_cases h with ⟨-, rfl⟩ | ⟨-, rfl⟩ <;> rfl

/-- The length of a packed frame is at most 127, so OUT_LEN holds it whole. -/
theorem pack_outLen {s t : State} (h : exec .pack s = .next t) (h0 : t.result = 0x00) :
    t.outLen.toNat = packLength s.fd (fcPresence s.fd.fc) := by
  obtain ⟨-, -, -, hmax, -, rfl⟩ := pack_success h h0
  have hmax : packLength s.fd (fcPresence s.fd.fc) ≤ 127 := hmax
  show (BitVec.ofNat 8 (packLength s.fd (fcPresence s.fd.fc))).toNat = _
  rw [BitVec.toNat_ofNat, Nat.mod_eq_of_lt (by omega)]

theorem pack_failure_outLen {s t : State} (h : exec .pack s = .next t) (h0 : t.result ≠ 0x00)
    (h1 : t.result ≠ 0x01) : t.outLen = 0 := by
  rcases pack_cases h with ⟨-, rfl⟩ | ⟨e, -, -, rfl⟩ | ⟨r, -, rfl⟩
  · exact absurd rfl h1
  · rfl
  · exact absurd rfl h0

end Sys2Proof.Machine
end

section
/-! SUPPORT. STATUS (10_state.md R29): what each command leaves there. -/

namespace Sys2Proof.Machine

theorem statusOf_bits (p : Presence) (dinf sinf : Bool) :
    (statusOf p dinf sinf).getLsbD 0 = p.dpan ∧ (statusOf p dinf sinf).getLsbD 1 = p.span ∧
      (statusOf p dinf sinf).getLsbD 2 = dinf ∧ (statusOf p dinf sinf).getLsbD 3 = sinf := by
  simp [statusOf]

/-- A state whose STATUS a command wrote has the flags the command wrote. -/
theorem flags_of_status {t : State} {p : Presence} {dinf sinf : Bool} (h : t.status = statusOf p dinf sinf) :
    t.dpanPresent = p.dpan ∧ t.spanPresent = p.span ∧ t.dpanInferred = dinf ∧ t.spanInferred = sinf := by
  have hbits := statusOf_bits p dinf sinf
  rwa [← h] at hbits

theorem unpack_status {s t : State} (h : exec .unpack s = .next t) (h0 : t.result = 0x00) :
    t.status = statusOf (fcPresence (wireFc s.inBuf)) (infersDpan (wireFc s.inBuf)) (infersSpan (wireFc s.inBuf)) := by
  obtain ⟨-, -, -, -, -, hnone, -, rfl⟩ := unpack_success h h0
  rw [inferPanIds_eq hnone]
  rfl

/-- A successful RESOLVE passed both guards (41_resolver.md R130). -/
theorem resolve_success {s t : State} (h : exec .resolve s = .next t) (h0 : t.result = 0x00) :
    t = commitResolve (fcPresence s.fd.fc) s := by
  rcases resolve_cases h with ⟨e, he, rfl⟩ | ⟨p, hp, rfl⟩
  · have hs : e = .success := code_eq_zero h0
    rcases resolveFc_error he with rfl | rfl <;> cases hs
  · rw [resolveFc_eq] at hp
    obtain ⟨-, hp⟩ := else_of_ok hp
    obtain ⟨-, hp⟩ := else_of_ok hp
    cases hp
    rfl

theorem pack_resolve_status {i : Instr} {s t : State} (hi : i = .pack ∨ i = .resolve) (h : exec i s = .next t)
    (h0 : t.result = 0x00) : t.status = statusOf (fcPresence s.fd.fc) false false := by
  rcases hi with rfl | rfl
  · obtain ⟨-, -, -, -, -, rfl⟩ := pack_success h h0
    rfl
  · rw [resolve_success h h0]
    rfl

theorem failure_status {i : Instr} {s t : State} (hi : i = .unpack ∨ i = .pack ∨ i = .resolve)
    (h : exec i s = .next t) (h0 : t.result ≠ 0x00) : t.status = if t.result = 0x01 then s.status else 0 := by
  have hother {e : ResultCode} (he : e ≠ .parameterError) : 0 = if e.code = 0x01 then s.status else 0 :=
    (if_neg fun hc => he (code_eq_one hc)).symm
  rcases hi with rfl | rfl | rfl
  · rcases unpack_cases h with ⟨-, rfl⟩ | ⟨e, he, -, rfl⟩ | ⟨u, -, rfl⟩
    · rfl
    · exact hother he
    · exact absurd rfl h0
  · rcases pack_cases h with ⟨-, rfl⟩ | ⟨e, he, -, rfl⟩ | ⟨r, -, rfl⟩
    · rfl
    · exact hother he
    · exact absurd rfl h0
  · rcases resolve_cases h with ⟨e, he, rfl⟩ | ⟨p, -, rfl⟩
    · refine hother ?_
      rcases resolveFc_error he with rfl | rfl <;> decide
    · exact absurd rfl h0

theorem crc16_nop_status {i : Instr} {s t : State} (hi : i = .crc16 ∨ i = .nop) (h : exec i s = .next t) :
    t.status = s.status := by
  rcases hi with rfl | rfl
  · rcases crc16_cases h with ⟨-, rfl⟩ | ⟨-, rfl⟩ <;> rfl
  · cases h; rfl

/-- STATUS reads its four flags in bits 3:0 and 0 above. -/
theorem window_status_bits (s : State) : ∃ b : Byte, s.window 0x002 = some b ∧ b.toNat < 16 ∧
    b.getLsbD 0 = s.dpanPresent ∧ b.getLsbD 1 = s.spanPresent ∧ b.getLsbD 2 = s.dpanInferred ∧
    b.getLsbD 3 = s.spanInferred := by
  have hw : (s.status.setWidth 8).toNat = s.status.toNat := BitVec.toNat_setWidth_of_le (by decide)
  refine ⟨s.status.setWidth 8, rfl, hw ▸ s.status.isLt, ?_⟩
  simp [State.dpanPresent, State.spanPresent, State.dpanInferred, State.spanInferred]

/-- CTRL reads its three flags in bits 2:0 and 0 above (10_state.md R30). -/
theorem window_ctrl_bits (s : State) : ∃ b : Byte, s.window 0x003 = some b ∧ b.getLsbD 0 = s.inValid ∧
    b.getLsbD 1 = s.fdValid ∧ b.getLsbD 2 = s.outValid ∧ b.toNat < 8 := by
  have hw : (s.ctrl.setWidth 8).toNat = s.ctrl.toNat := BitVec.toNat_setWidth_of_le (by decide)
  refine ⟨s.ctrl.setWidth 8, rfl, ?_, ?_, ?_, hw ▸ s.ctrl.isLt⟩ <;>
    simp [State.inValid, State.fdValid, State.outValid]

end Sys2Proof.Machine
end

section
/-! The statements of 10_state.md, settled. -/

namespace Sys2Proof.Machine

/-- Settles O16: a write changes one byte of the window under its mask, a read none, and each register reads as the bytes
of its value. -/
theorem hostByteAccess : Obligations.HostByteAccess := by
  unfold Obligations.HostByteAccess
  refine ⟨fun s off v hs hoff h0 => ?_, fun s off hoff => ?_, fun s => ?_⟩
  · obtain ⟨r, i, hl⟩ := locate_of_lt hoff
    obtain ⟨hro, hctrl, hfc, hfull⟩ := storedBits_of_locate hl
    have hread {m : Byte} (hm : r.storedBits i = m) (hne : m ≠ 0x00) :
        (writeReg r i v s).window off = some (v &&& m) := by
      subst hm
      exact window_writeReg_same hl v hs hne
    refine ⟨writeReg r i v s, hostWrite_of_ne_cmd hl h0 v s, writeReg_host .., writeReg_readData ..,
      fun o _ ho => window_writeReg_of_ne hl ho v hs, fun h => writeReg_of_not_stored (hro h) v s,
      fun h => hread (hctrl h) (by decide), fun h => hread (hfc h) (by decide), fun h => ?_⟩
    rw [hread (hfull h) (by decide), and_ff]
  · obtain ⟨r, i, hl⟩ := locate_of_lt hoff
    have hw := window_of_locate hl s
    exact ⟨readReg r i s, hw, hostRead_of_window hw, window_setReadData s _⟩
  · exact ⟨rfl, rfl, rfl, rfl, rfl, rfl, rfl, rfl,
      windowLE_row (r := .fdFc) rfl fun _ => rfl, windowLE_row (r := .fdDpan) rfl fun _ => rfl,
      windowLE_row (r := .fdSpan) rfl fun _ => rfl, windowLE_row (r := .fdFcs) rfl fun _ => rfl,
      windowLE_row (r := .fdDaddr) rfl fun _ => rfl, windowLE_row (r := .fdSaddr) rfl fun _ => rfl,
      windowLE_row (r := .crcOut) rfl fun _ => rfl⟩

/-- Settles O20: RESULT takes the code the command's steps end with, which is none of the last two codes; every host
event but a reset leaves RESULT or brings a code of at most 0x08 there. -/
theorem resultHoldsTheOutcome : Obligations.ResultHoldsTheOutcome := by
  unfold Obligations.ResultHoldsTheOutcome
  refine ⟨fun i s t => exec_result, fun i s t => exec_result_le_seven, fun s t => exec_result,
    fun s c es t hc hh h => ?_, fun s v => rfl, fun s es t hh h => ?_, fun s t h hff => ?_, rfl⟩
  · rw [step_cmd_write hh, issueCommand_reserved hc] at h
    cases h; rfl
  · rw [step_cons hh] at h
    cases h; rfl
  · rcases step_cases h with ⟨-, rfl⟩ | ⟨e, es, hh, he⟩
    · exact .inl hff
    by_cases hr : e = .reset
    · exact .inr ⟨es, hr ▸ hh⟩
    · rcases runEvent_result hr he with hs | hle
      · exact .inl (hs.symm.trans hff)
      · rw [hff] at hle
        exact absurd hle (by decide)

/-- Settles O40: the second UNPACK takes the same steps, and ends as the first one did. -/
theorem unpackIsIdempotent : Obligations.UnpackIsIdempotent := by
  unfold Obligations.UnpackIsIdempotent
  intro s t h
  obtain ⟨-, hctrl, hlen, hbuf, -, -⟩ := exec_frame h
  have hsteps := unpackSteps_congr hctrl hlen hbuf standard
  rw [exec_unpack_eq] at h ⊢
  cases h
  rw [hsteps, conclude_unpack_idem]

/-- Settles O43: a packed frame is its header, its payload and two bytes of FCS, and the header is 2 bytes only when every
optional field is absent. -/
theorem outLenBounds : Obligations.OutLenBounds := by
  unfold Obligations.OutLenBounds
  refine ⟨fun i s t => exec_outLen, fun s t h h0 => ?_, fun s t => pack_failure_outLen, fun s v => rfl, rfl⟩
  obtain ⟨-, -, ⟨-, -, hd, hs, -, -⟩, hmax, -, -⟩ := pack_success h h0
  have hout : t.outLen.toNat = hdrLen s.fd.fc (fcPresence s.fd.fc) + s.fd.plen.toNat + 2 := pack_outLen h h0
  have hmin := two_le_hdrLen s.fd.fc (fcPresence s.fd.fc)
  have hplen : s.fd.plen = 0 ↔ s.fd.plen.toNat = 0 := BitVec.toNat_inj.symm
  refine ⟨by omega, by omega, hout, ?_⟩
  calc t.outLen.toNat = 4
      ↔ hdrLen s.fd.fc (fcPresence s.fd.fc) = 2 ∧ s.fd.plen = 0 := by rw [hplen]; omega
    _ ↔ _ := by rw [hdrLen_eq_two_iff hd hs]; tauto

/-- Settles O50: each command's writes of STATUS, by how the command ended; no other event writes it. -/
theorem statusRegister : Obligations.StatusRegister := by
  unfold Obligations.StatusRegister
  refine ⟨window_status_bits, fun s v => rfl, rfl, fun s t h h0 => flags_of_status (unpack_status h h0),
    fun i s t hi h h0 => flags_of_status (pack_resolve_status hi h h0), fun i s t => failure_status,
    fun i s t => crc16_nop_status, fun s c t hc h => ?_, fun s off v t hoff h => ?_, fun s off t h => ?_⟩
  · have hw : hostWrite 0x000 c s = .next (unknownCommand (s.setCmd c)) :=
      (hostWrite_cmd c s).trans (issueCommand_reserved hc _)
    rw [hw] at h
    cases h; rfl
  · obtain ⟨r, i, -, rfl⟩ := hostWrite_ne_cmd_cases hoff h
    exact writeReg_status ..
  · obtain ⟨b, rfl⟩ := hostRead_cases h
    rfl

/-- Settles O6: the step of a write of CMD is `issueCommand` on the state with the code stored, and no command writes CMD
or the queue. -/
theorem stepRunsWrittenCommand : Obligations.StepRunsWrittenCommand := by
  unfold Obligations.StepRunsWrittenCommand
  refine ⟨fun s c es i hh hd => ?_, fun s c es hh => ?_, fun i s t h => ?_, fun s => rfl, rfl⟩
  · rw [step_cmd_write hh, issueCommand_of_decode hd]
    rfl
  · obtain ⟨t, ht, hcmd, hhost⟩ := issueCommand_frame c ((s.setHost es).setCmd c)
    exact ⟨t, (step_cmd_write hh).trans ht, congrArg some hcmd, hhost⟩
  · obtain ⟨hcmd, -⟩ := exec_frame h
    exact hcmd

/-- Settles O7: the placed word is the queue's oldest event, and the decoder reads its command from the word's byte. -/
theorem fetchWordRunsNext : Obligations.FetchWordRunsNext := by
  unfold Obligations.FetchWordRunsNext
  intro s nbits w i h
  rw [step_withFetchWord, issueCommand_of_decode (decode_of_decodeTableWord h)]
  rfl

/-- Settles O17: the reserved row reads 0x00 and stores nothing, and the rows cover exactly the offsets below 0x200. -/
theorem reservedOffsetsReadZero : Obligations.ReservedOffsetsReadZero := by
  unfold Obligations.ReservedOffsetsReadZero
  refine ⟨fun s off h1 h2 => ?_, window_eq_none_iff⟩
  have hl := locate_reserved h1 h2
  exact ⟨window_of_locate hl s, fun v => hostWrite_of_ne_cmd hl (by omega) v s⟩

/-- Settles O18: the buffers are the last three rows of the window map. -/
theorem bufferWindows : Obligations.BufferWindows := by
  unfold Obligations.BufferWindows
  exact fun s a h => ⟨window_row s .inBuf h, window_row s .outBuf h, window_row s .fdPayload h⟩

/-- Settles O19: CTRL stores and reads three bits, and it is in the frame of every command. -/
theorem ctrlKeepsThreeBits : Obligations.CtrlKeepsThreeBits := by
  unfold Obligations.CtrlKeepsThreeBits
  refine ⟨fun s v => rfl, window_ctrl_bits, fun i s t h => ?_⟩
  obtain ⟨-, hctrl, -⟩ := exec_frame h
  exact hctrl

end Sys2Proof.Machine
end

section
/-! SUPPORT. Which host events stop a step (20_memory.md R63, R68, R69): those outside the window, and no others. -/

namespace Sys2Proof.Machine

theorem insideWindow_one_iff {off : Nat} : insideWindow off 1 = true ↔ off < 0x200 := decide_eq_true_iff

/-- A write inside the window completes, the command it may run included, and leaves the queue. -/
theorem hostWrite_inside {off : Nat} (h : off < 0x200) (v : Byte) (s : State) :
    ∃ t, hostWrite off v s = .next t ∧ t.host = s.host := by
  by_cases h0 : off = 0x000
  · subst h0
    obtain ⟨t, ht, -, hhost⟩ := issueCommand_frame v (s.setCmd v)
    exact ⟨t, ht, hhost⟩
  · obtain ⟨r, i, hl⟩ := locate_of_lt h
    exact ⟨_, hostWrite_of_ne_cmd hl h0 v s, writeReg_host ..⟩

theorem hostWrite_outside {off : Nat} (h : 0x200 ≤ off) (v : Byte) (s : State) :
    hostWrite off v s = .fault (.outsideWindow off) := by
  rw [hostWrite, locate_eq_none.2 h]

theorem hostRead_inside {off : Nat} (h : off < 0x200) (s : State) :
    ∃ t, hostRead off s = .next t ∧ t.host = s.host := by
  obtain ⟨r, i, hl⟩ := locate_of_lt h
  exact ⟨_, hostRead_of_window (window_of_locate hl s), rfl⟩

theorem hostRead_outside {off : Nat} (h : 0x200 ≤ off) (s : State) :
    hostRead off s = .fault (.outsideWindow off) := by
  rw [hostRead, (window_eq_none_iff s off).2 h]

/-- An event to the block takes effect and leaves the queue. -/
theorem runEvent_inside {e : HostEvent} (h : e.wf = true) (s : State) :
    ∃ t, runEvent e s = .next t ∧ t.host = s.host := by
  cases e with
  | write off v => exact hostWrite_inside (insideWindow_one_iff.1 h) v s
  | read off => exact hostRead_inside (insideWindow_one_iff.1 h) s
  | writeReadData off => exact hostWrite_inside (insideWindow_one_iff.1 h) s.readData s
  | reset => exact ⟨_, rfl, rfl⟩

/-- An event that is not to the block is an access, and it stops by its offset. -/
theorem runEvent_outside {e : HostEvent} (h : e.wf ≠ true) (s : State) :
    ∃ off, 0x200 ≤ off ∧ runEvent e s = .fault (.outsideWindow off) := by
  have hout {off : Nat} (h : insideWindow off 1 ≠ true) : 0x200 ≤ off :=
    Nat.le_of_not_lt (mt insideWindow_one_iff.2 h)
  cases e with
  | write off v => exact ⟨off, hout h, hostWrite_outside (hout h) v s⟩
  | read off => exact ⟨off, hout h, hostRead_outside (hout h) s⟩
  | writeReadData off => exact ⟨off, hout h, hostWrite_outside (hout h) s.readData s⟩
  | reset => exact absurd rfl h

theorem step_nil {s : State} (h : s.host = []) : step s = .next s := by rw [step, h]

/-- With every event to the block, a step answers, takes the oldest event and leaves the others. -/
theorem step_inside {s : State} (h : s.hostInside) : ∃ t, step s = .next t ∧ t.host = s.host.tail := by
  rcases hh : s.host with _ | ⟨e, es⟩
  · exact ⟨s, step_nil hh, hh⟩
  · rw [step_cons hh]
    exact runEvent_inside (h e (hh ▸ List.mem_cons_self)) (s.setHost es)

/-- A step ends in a next state, or in the stop of an access outside the window. -/
theorem step_ends (s : State) :
    (∃ t, step s = .next t) ∨ ∃ off, 0x200 ≤ off ∧ step s = .fault (.outsideWindow off) := by
  rcases hh : s.host with _ | ⟨e, es⟩
  · exact .inl ⟨s, step_nil hh⟩
  · rw [step_cons hh]
    by_cases he : e.wf = true
    · obtain ⟨t, ht, -⟩ := runEvent_inside he (s.setHost es)
      exact .inl ⟨t, ht⟩
    · exact .inr (runEvent_outside he _)

end Sys2Proof.Machine
end

section
/-! SUPPORT. What UNPACK reads (44_facades.md R200): of IN_BUF, the first IN_LEN bytes. -/

namespace Sys2Proof.Machine

section
variable {buf buf' : Memory} {n : Nat} (hbuf : ∀ a, a < n → buf'.read a = buf.read a)
include hbuf

theorem readBytes_of_agree {a k : Nat} (h : a + k ≤ n) : buf'.readBytes a k = buf.readBytes a k :=
  Memory.readBytes_congr fun i _ hi => hbuf i (by omega)

theorem wireFc_of_agree (h : 2 ≤ n) : wireFc buf' = wireFc buf := by
  rw [wireFc, wireFc, hbuf 0 (by omega), hbuf 1 (by omega)]

/-- A field that is absent is not read, and a field that is present lies in the first `n` bytes. -/
theorem panId_of_agree {a : Nat} (present : Bool) (h : a + panIdLen present ≤ n) :
    (if present then leValue 16 (buf'.readBytes a 2) else 0) =
      if present then leValue 16 (buf.readBytes a 2) else 0 := by
  cases present with
  | false => rfl
  | true => exact congrArg (leValue 16) (readBytes_of_agree hbuf h)

theorem seq_of_agree {a : Nat} (suppressed : Bool) (h : a + seqLen suppressed ≤ n) :
    (if suppressed then 0 else buf'.read a) = if suppressed then 0 else buf.read a := by
  cases suppressed with
  | false => exact hbuf a h
  | true => rfl

/-- Every field of a frame of `n` bytes lies in its first `n` bytes (30_encoding.md R88 to R90). -/
theorem receivedFd_of_agree {fc : FrameControl} {p : Presence} (h : hdrLen fc p + 2 ≤ n) :
    receivedFd buf' n fc p = receivedFd buf n fc p := by
  have hhdr : saddrAt fc p + alen fc.srcAddrMode = hdrLen fc p := rfl
  have hsaddr : saddrAt fc p = spanAt fc p + panIdLen p.span := rfl
  have hspan : spanAt fc p = daddrAt fc p + alen fc.dstAddrMode := rfl
  have hdaddr : daddrAt fc p = dpanAt fc + panIdLen p.dpan := rfl
  have hdpan : dpanAt fc = 2 + seqLen fc.seqNumSuppressed := rfl
  unfold receivedFd
  rw [seq_of_agree hbuf _ (by omega), panId_of_agree hbuf p.dpan (by omega), panId_of_agree hbuf p.span (by omega),
    readBytes_of_agree hbuf (a := daddrAt fc p) (by omega), readBytes_of_agree hbuf (a := saddrAt fc p) (by omega),
    readBytes_of_agree hbuf (a := hdrLen fc p) (by omega), readBytes_of_agree hbuf (a := n - 2) (by omega)]

end

/-- The steps of UNPACK are a function of IN_VALID, FD_VALID, IN_LEN and the first IN_LEN bytes of IN_BUF. -/
theorem unpackSteps_of_agree {s s' : State} (hiv : s'.inValid = s.inValid) (hfv : s'.fdValid = s.fdValid)
    (hlen : s'.inLen = s.inLen) (hbuf : ∀ a, a < s.inLen.toNat → s'.inBuf.read a = s.inBuf.read a) :
    unpackSteps standard s' = unpackSteps standard s := by
  simp only [unpackSteps_standard, hiv, hfv, hlen]
  refine else_congr fun _ => else_congr fun hn => ?_
  have hn : 2 ≤ s.inLen.toNat := Nat.le_of_not_lt fun h => hn (.inl h)
  rw [wireFc_of_agree hbuf hn]
  refine else_congr fun _ => else_congr fun _ => else_congr fun _ => else_congr fun _ => else_congr fun hhdr => ?_
  rw [readBytes_of_agree hbuf (a := 0) (by omega), readBytes_of_agree hbuf (a := s.inLen.toNat - 2) (by omega),
    receivedFd_of_agree hbuf (by omega)]

end Sys2Proof.Machine
end

section
/-! SUPPORT. What PACK reads (44_facades.md R210): of the FD, all but FD_FCS and the payload bytes past FD_PLEN. -/

namespace Sys2Proof.Machine

theorem exec_pack_eq (s : State) :
    exec .pack s = .next (conclude .pack commitPack (packSteps standard s) s) := rfl

section
variable {fd fd' : FrameDesc} (hfd : fd' = { fd with fcs := fd'.fcs, payload := fd'.payload })
  (hpay : ∀ a, a < fd.plen.toNat → fd'.payload.read a = fd.payload.read a)
include hfd hpay

theorem bodyBytes_of_agree (p : Presence) : bodyBytes fd' p = bodyBytes fd p := by
  have hhdr : headerBytes fd' p = headerBytes fd p := by rw [hfd]; rfl
  have hplen : fd'.plen = fd.plen := by rw [hfd]
  have hread : fd'.payload.readBytes 0 fd.plen.toNat = fd.payload.readBytes 0 fd.plen.toNat :=
    readBytes_of_agree hpay (by omega)
  rw [bodyBytes, bodyBytes, hhdr, hplen, hread]

theorem frameBytes_of_agree (alg : CrcAlgorithm) (p : Presence) : frameBytes alg fd' p = frameBytes alg fd p := by
  rw [frameBytes, frameBytes, bodyBytes_of_agree hfd hpay]

end

/-- The steps of PACK are a function of FD_VALID, OUT_VALID and the FD, less FD_FCS and the payload past FD_PLEN. -/
theorem packSteps_of_agree {s s' : State} (hfv : s'.fdValid = s.fdValid) (hov : s'.outValid = s.outValid)
    (hfd : s'.fd = { s.fd with fcs := s'.fd.fcs, payload := s'.fd.payload })
    (hpay : ∀ a, a < s.fd.plen.toNat → s'.fd.payload.read a = s.fd.payload.read a) :
    packSteps standard s' = packSteps standard s := by
  have hfc : s'.fd.fc = s.fd.fc := by rw [hfd]
  have hlen (p : Presence) : packLength s'.fd p = packLength s.fd p := by rw [hfd]; rfl
  simp only [packSteps_standard, hfv, hov, hfc, hlen, frameBytes_of_agree hfd hpay]

end Sys2Proof.Machine
end

section
/-! The statements of 20_memory.md, settled. -/

namespace Sys2Proof.Machine

/-- Settles O11: an event inside the window takes effect on the state with that event taken off, and leaves the rest of
the queue. -/
theorem stepNeverStopsInsideWindow : Obligations.StepNeverStopsInsideWindow := by
  unfold Obligations.StepNeverStopsInsideWindow
  refine ⟨fun s h => ?_, fun s off v es hh => step_cons hh, fun s off es hh => step_cons hh,
    fun s off es hh => step_cons hh, fun s es hh => step_cons hh, fun s => step_nil⟩
  obtain ⟨t, ht, hhost⟩ := step_inside h
  exact ⟨t, ht, hhost, fun e he => h e (List.mem_of_mem_tail (hhost ▸ he))⟩

/-- Settles O39: both runs take the same steps, and what they end in says what is written; PARAMETER_ERROR writes RESULT
only. -/
theorem unpackReadsOnlyItsOperands : Obligations.UnpackReadsOnlyItsOperands := by
  unfold Obligations.UnpackReadsOnlyItsOperands
  intro s s' t t' hiv hfv hlen hbuf h h'
  rw [exec_unpack_eq] at h h'
  rw [unpackSteps_of_agree hiv hfv hlen hbuf] at h'
  cases h
  cases h'
  rcases unpackSteps standard s with e | u
  · by_cases he : e = .parameterError
    · subst he
      exact ⟨rfl, rfl, rfl, rfl, rfl⟩
    · simp only [conclude, raise_unpack, if_neg he]
      refine ⟨rfl, ?_⟩
      rw [State.setResult_result, if_neg fun hc => he (code_eq_one hc)]
      exact ⟨rfl, rfl⟩
  · exact ⟨rfl, rfl, rfl⟩

/-- Settles O44: both runs take the same steps, and what they end in says what is written, PARAMETER_ERROR apart. -/
theorem packReadsOnlyItsOperands : Obligations.PackReadsOnlyItsOperands := by
  unfold Obligations.PackReadsOnlyItsOperands
  intro s s' t t' hfv hov hfd hpay h h'
  rw [exec_pack_eq] at h h'
  rw [packSteps_of_agree hfv hov hfd hpay] at h'
  cases h
  cases h'
  rcases packSteps standard s with e | r
  · by_cases he : e = .parameterError
    · subst he
      exact ⟨rfl, fun hne => absurd rfl hne⟩
    · simp only [conclude, raise_pack, if_neg he]
      exact ⟨rfl, fun _ => ⟨rfl, rfl, rfl⟩⟩
  · exact ⟨rfl, fun _ => ⟨rfl, rfl, rfl⟩⟩

/-- Settles O12: an access outside the window stops by its offset, and a step that does not answer is one of these. -/
theorem onlyOutsideWindowStops : Obligations.OnlyOutsideWindowStops := by
  unfold Obligations.OnlyOutsideWindowStops
  refine ⟨fun s off v es hh ho => (step_cons hh).trans (hostWrite_outside ho v _),
    fun s off es hh ho => (step_cons hh).trans (hostRead_outside ho _),
    fun s off es hh ho => (step_cons hh).trans (hostWrite_outside ho s.readData _),
    fun s f hf => ?_, fun s r hr => ?_⟩
  · rcases step_ends s with ⟨t, ht⟩ | ⟨off, ho, hs⟩
    · cases ht.symm.trans hf
    · cases hs.symm.trans hf
      exact ⟨off, rfl, ho⟩
  · rcases step_ends s with ⟨t, ht⟩ | ⟨off, -, hs⟩
    · cases ht.symm.trans hr
    · cases hs.symm.trans hr

end Sys2Proof.Machine
end

section
/-! SUPPORT. The command byte, both ways (30_encoding.md R80, R81). -/

namespace Sys2Proof

/-- The command map has one row per command (30_encoding.md R81). -/
theorem decodeCommand_eq_ok_iff {b : Byte} {i : Instr} : decodeCommand b = .ok i ↔ b = commandCode i := by
  constructor
  · intro h
    unfold decodeCommand at h
    repeat' split at h
    all_goals cases h
    all_goals assumption
  · rintro rfl
    cases i <;> rfl

/-- Decoding takes the command's one byte and leaves the rest. -/
theorem decode_cons_eq_ok_iff {b : Byte} {rest : List Byte} {i : Instr} :
    decode (b :: rest) = .ok (i, rest) ↔ b = commandCode i := by
  rw [← decodeCommand_eq_ok_iff, decode]
  cases decodeCommand b <;> simp [Except.map]

theorem decode_encode_append (i : Instr) (rest : List Byte) : decode (encode i ++ rest) = .ok (i, rest) :=
  decode_cons_eq_ok_iff.2 rfl

end Sys2Proof
end

section
/-! SUPPORT. How long the fields of a header can be (30_encoding.md R85, R88, R89). -/

namespace Sys2Proof.Machine

theorem seqLen_le_one (suppressed : Bool) : seqLen suppressed ≤ 1 := by
  cases suppressed <;> decide

theorem panIdLen_le_two (present : Bool) : panIdLen present ≤ 2 := by
  cases present <;> decide

theorem alen_le_eight {m : AddrMode} (h : m ≠ .reserved) : alen m ≤ 8 := by
  cases m
  case reserved => exact absurd rfl h
  all_goals decide

theorem hdrLen_le {fc : FrameControl} (hd : fc.dstAddrMode ≠ .reserved) (hs : fc.srcAddrMode ≠ .reserved)
    (p : Presence) : hdrLen fc p ≤ 23 := by
  have hseq := seqLen_le_one fc.seqNumSuppressed
  have hdpan := panIdLen_le_two p.dpan
  have hspan := panIdLen_le_two p.span
  have hdaddr := alen_le_eight hd
  have hsaddr := alen_le_eight hs
  unfold hdrLen
  omega

end Sys2Proof.Machine
end

section
/-! SUPPORT. FcDecode takes no notice of bit 7 (40_frame_control.md R110, R112; 30_encoding.md R92). -/

namespace Sys2Proof

/-- The fields of more than one bit, at their bits of the word (40_frame_control.md R111). -/
theorem fcEncode_extractLsb' (fc : FrameControl) :
    (fcEncode fc).extractLsb' 0 3 = fc.frameType.bits ∧ (fcEncode fc).extractLsb' 10 2 = fc.dstAddrMode.bits ∧
      (fcEncode fc).extractLsb' 12 2 = fc.frameVersion.bits ∧
      (fcEncode fc).extractLsb' 14 2 = fc.srcAddrMode.bits := by
  refine ⟨?_, ?_, ?_, ?_⟩
  all_goals
    apply BitVec.eq_of_getLsbD_eq
    intro k hk
    interval_cases k <;> simp [fcEncode, flagAt]

/-- FcDecode after FcEncode gives the record back. -/
theorem fcDecode_fcEncode (fc : FrameControl) : fcDecode (fcEncode fc) = fc := by
  obtain ⟨htype, hdst, hver, hsrc⟩ := fcEncode_extractLsb' fc
  simp only [fcDecode, htype, hdst, hver, hsrc, FrameType.ofBits_bits, AddrMode.ofBits_bits,
    FrameVersion.ofBits_bits]
  simp [fcEncode, flagAt]

/-- Words that are equal but for bit 7 decode to one record. -/
theorem fcDecode_eq_of_and_mask {v w : Half} (h : v &&& 0xFF7F = w &&& 0xFF7F) : fcDecode v = fcDecode w := by
  rw [← fcDecode_fcEncode (fcDecode v), ← fcDecode_fcEncode (fcDecode w), fcEncode_fcDecode, fcEncode_fcDecode, h]

/-- A byte written to FD_FC is decoded as if bit 7 had been held all along. -/
theorem fcDecode_setByteAt_fcEncode (w : Half) (i : Nat) (b : Byte) :
    fcDecode (setByteAt (fcEncode (fcDecode w)) i b) = fcDecode (setByteAt w i b) := by
  apply fcDecode_eq_of_and_mask
  rw [fcEncode_fcDecode, setByteAt, setByteAt]
  apply BitVec.eq_of_getLsbD_eq
  intro k hk
  simp only [BitVec.getLsbD_and, BitVec.getLsbD_or]
  cases (0xFF7F : Half).getLsbD k <;> simp

end Sys2Proof
end

section
/-! SUPPORT. A run of byte writes to one register (30_encoding.md R94): the bytes of a value, written one after the other,
leave that value. -/

namespace Sys2Proof

/-- `v` with the bytes from byte `i` on replaced, one byte write after the other (10_state.md R46). -/
def setBytesAt {w : Nat} (v : BitVec w) (i : Nat) : List Byte → BitVec w
  | [] => v
  | b :: bs => setBytesAt (setByteAt v i b) (i + 1) bs

/-- Byte `j` after a run of byte writes: the one written there, or as before. -/
theorem byteAt_setBytesAt {w : Nat} (v : BitVec w) (i : Nat) (bs : List Byte) (h : 8 * (i + bs.length) ≤ w) {j : Nat}
    (hj : 8 * j + 8 ≤ w) :
    byteAt (setBytesAt v i bs) j = if i ≤ j then bs.getD (j - i) (byteAt v j) else byteAt v j := by
  induction bs generalizing v i with
  | nil => simp [setBytesAt]
  | cons b bs ih =>
    rw [List.length_cons] at h
    rw [setBytesAt, ih _ _ (by omega), byteAt_setByteAt _ _ (by omega) hj]
    rcases Nat.lt_trichotomy j i with hlt | rfl | hgt
    · rw [if_neg (by omega), if_neg (by omega), if_neg (by omega)]
    · rw [if_neg (by omega), if_pos rfl, if_pos (Nat.le_refl j), Nat.sub_self]; rfl
    · obtain ⟨k, rfl⟩ := Nat.exists_eq_add_of_lt hgt
      rw [if_pos (by omega), if_neg (by omega), if_pos (by omega), show i + k + 1 - (i + 1) = k by omega,
        show i + k + 1 - i = k + 1 by omega, List.getD_cons_succ]

/-- Values with the same bytes are equal. -/
theorem eq_of_byteAt_eq {n : Nat} {v w : BitVec (8 * n)} (h : ∀ i, i < n → byteAt v i = byteAt w i) : v = w := by
  rw [← leValue_bytesLE n v (Nat.le_refl _), ← leValue_bytesLE n w (Nat.le_refl _)]
  exact congrArg _ (List.map_congr_left fun i hi => h i (List.mem_range.1 hi))

/-- Writing all bytes of a value leaves the value, whatever was there before. -/
theorem setBytesAt_bytesLE {n : Nat} (old v : BitVec (8 * n)) : setBytesAt old 0 (bytesLE n v) = v := by
  apply eq_of_byteAt_eq
  intro i hi
  have hlen : i < (bytesLE n v).length := by simpa using hi
  rw [byteAt_setBytesAt _ _ _ (by simp) (by omega), if_pos (Nat.zero_le i), Nat.sub_zero,
    List.getD_eq_getElem _ _ hlen, getElem_bytesLE]

end Sys2Proof

namespace Sys2Proof.Machine

theorem run_succ_of_next {M : Host.Core} {k : Nat} {s t : M.State} (h : M.step s = .next t) :
    M.run (k + 1) s = M.run k t := by
  rw [Host.Core.run, h]

theorem run_succ_of_step {k : Nat} {s t : State} (h : step s = .next t) :
    Host.Core.run core (k + 1) s = Host.Core.run core k t :=
  run_succ_of_next (M := core) h

/-- A host write takes no notice of the queue. -/
theorem writeReg_setHost (r : Reg) (i : Nat) (v : Byte) (s : State) (es : List HostEvent) :
    writeReg r i v (s.setHost es) = (writeReg r i v s).setHost es := by
  cases r <;> rfl

/-- One byte write to a register at the queue's head. -/
theorem step_write_row {r : Reg} (hr : r ≠ .cmd) {i : Nat} (hi : i < r.row.size) (b : Byte) (es : List HostEvent)
    (s : State) :
    step (s.setHost (.write (r.row.base + i) b :: es)) = .next ((writeReg r i b s).setHost es) :=
  calc step (s.setHost (.write (r.row.base + i) b :: es))
      = hostWrite (r.row.base + i) b (s.setHost es) := rfl
    _ = .next (writeReg r i b (s.setHost es)) := hostWrite_reg (locate_eq_some_iff.2 ⟨hi, rfl⟩) hr
    _ = .next ((writeReg r i b s).setHost es) := by rw [writeReg_setHost]

/-! `put x` is the state with `x` in the register `r`, and `hput` says that a byte write to `r` replaces one byte of `x`. -/

section
variable {r : Reg} (hr : r ≠ .cmd) {w : Nat} {put : BitVec w → State}
  (hput : ∀ x i b, writeReg r i b (put x) = put (setByteAt x i b))
include hr hput

theorem run_writesAt (x : BitVec w) (i : Nat) (bs : List Byte) (h : i + bs.length ≤ r.row.size) :
    Host.Core.run core bs.length ((put x).setHost (writesAt (r.row.base + i) bs)) =
      .next ((put (setBytesAt x i bs)).setHost []) := by
  induction bs generalizing x i with
  | nil => rfl
  | cons b bs ih =>
    rw [List.length_cons] at h
    rw [List.length_cons, writesAt, run_succ_of_step (step_write_row hr (by omega) b _ _), hput, Nat.add_assoc]
    exact ih _ _ (by omega)

end

/-- The wide write of a whole register leaves the value written, whatever the register held. -/
theorem run_wideWrite {r : Reg} (hr : r ≠ .cmd) {n : Nat} (hn : r.row.size = n) {put : BitVec (8 * n) → State}
    (hput : ∀ x i b, writeReg r i b (put x) = put (setByteAt x i b)) (x v : BitVec (8 * n)) :
    Host.Core.run core n ((put x).setHost (writesAt r.row.base (bytesLE n v))) = .next ((put v).setHost []) := by
  have h := run_writesAt hr hput x 0 (bytesLE n v) (by simp [hn])
  rwa [bytesLE_length, setBytesAt_bytesLE] at h

end Sys2Proof.Machine
end

section
/-! SUPPORT. The `copy` form from OUT_BUF to IN_BUF (30_encoding.md R94, 20_memory.md R74). -/

namespace Sys2Proof.Machine

theorem Memory.readBytes_succ (m : Memory) (a n : Nat) : m.readBytes a (n + 1) = m.read a :: m.readBytes (a + 1) n := by
  rw [Nat.add_comm, Memory.readBytes_add]
  rfl

theorem Memory.getD_readBytes (m : Memory) (a n i : Nat) (d : Byte) :
    (m.readBytes a n).getD i d = if i < n then m.read (a + i) else d := by
  by_cases h : i < n <;> simp [h, Memory.readBytes]

/-- The two events that copy byte `i`. -/
def copyPair (i : Nat) : List HostEvent := [.read (0x100 + i), .writeReadData (0x080 + i)]

/-- The state once byte `i` of OUT_BUF is copied: the byte read is the host's, and IN_BUF holds it. -/
def copyByte (i : Nat) (s : State) : State := writeReg .inBuf i (s.outBuf.read i) (s.setReadData (s.outBuf.read i))

theorem run_copyPair (k : Nat) {i : Nat} (hi : i < 128) (es : List HostEvent) (s : State) :
    Host.Core.run core (k + 2) (s.setHost (copyPair i ++ es)) = Host.Core.run core k ((copyByte i s).setHost es) := by
  have hread : step (s.setHost (copyPair i ++ es)) =
      .next ((s.setReadData (s.outBuf.read i)).setHost (.writeReadData (0x080 + i) :: es)) :=
    hostRead_of_window (window_row (s.setHost _) .outBuf hi)
  have hwrite : step ((s.setReadData (s.outBuf.read i)).setHost (.writeReadData (0x080 + i) :: es)) =
      .next ((copyByte i s).setHost es) :=
    step_write_row (r := .inBuf) (by decide) hi (s.outBuf.read i) es (s.setReadData (s.outBuf.read i))
  rw [run_succ_of_step hread, run_succ_of_step hwrite]

/-- Copying `n` bytes from byte `i` on: they are in IN_BUF, and nothing of the block but IN_BUF has changed. -/
theorem run_copyPairs (n : Nat) {i : Nat} (h : i + n ≤ 128) (s : State) :
    ∃ b, Host.Core.run core (2 * n) (s.setHost ((List.range' i n).flatMap copyPair)) =
      .next { s with inBuf := s.inBuf.writeBytes i (s.outBuf.readBytes i n), readData := b, host := [] } := by
  induction n generalizing i s with
  | zero => exact ⟨s.readData, rfl⟩
  | succ n ih =>
    obtain ⟨b, hb⟩ := ih (i := i + 1) (by omega) (copyByte i s)
    refine ⟨b, ?_⟩
    rw [List.range'_succ, List.flatMap_cons, Nat.mul_succ, run_copyPair _ (by omega), hb, Memory.readBytes_succ]
    rfl

end Sys2Proof.Machine
end

section
/-! SUPPORT. What UNPACK makes of two frames that differ in frame-control bit 7 and in their FCS only (30_encoding.md
R92). -/

namespace Sys2Proof.Machine

/-- Bit 7 of the frame's first byte is read by nothing. -/
theorem wireFc_of_bit_seven {buf buf' : Memory} (h0 : buf'.read 0 = buf.read 0 ^^^ 0x80)
    (h1 : buf'.read 1 = buf.read 1) : wireFc buf' = wireFc buf := by
  apply fcDecode_eq_of_and_mask
  rw [h0, h1]
  apply BitVec.eq_of_getLsbD_eq
  intro k hk
  rw [BitVec.getLsbD_and, BitVec.getLsbD_and, getLsbD_leValue, getLsbD_leValue]
  interval_cases k <;> simp

section
variable {buf buf' : Memory} {n : Nat} (hbuf : ∀ a, 2 ≤ a → a < n - 2 → buf'.read a = buf.read a)
include hbuf

theorem readBytes_of_middle {a k : Nat} (ha : 2 ≤ a) (h : a + k + 2 ≤ n) : buf'.readBytes a k = buf.readBytes a k :=
  Memory.readBytes_congr fun i hi hlt => hbuf i (by omega) (by omega)

/-- The fields of a frame but for its FCS lie between the frame control and the FCS (30_encoding.md R88 to R90). -/
theorem receivedFd_of_middle {fc : FrameControl} {p : Presence} (h : hdrLen fc p + 2 ≤ n) :
    receivedFd buf' n fc p = { receivedFd buf n fc p with fcs := (receivedFd buf' n fc p).fcs } := by
  have hhdr : hdrLen fc p = saddrAt fc p + alen fc.srcAddrMode := rfl
  have hsaddr : saddrAt fc p = spanAt fc p + panIdLen p.span := rfl
  have hspan : spanAt fc p = daddrAt fc p + alen fc.dstAddrMode := rfl
  have hdaddr : daddrAt fc p = dpanAt fc + panIdLen p.dpan := rfl
  have hdpan : dpanAt fc = 2 + seqLen fc.seqNumSuppressed := rfl
  have hseq : (if fc.seqNumSuppressed then 0 else buf'.read 2) = if fc.seqNumSuppressed then 0 else buf.read 2 :=
    ite_congr rfl (fun _ => rfl) fun hs => hbuf 2 (by omega) (by simp [hs, seqLen] at hdpan; omega)
  have hpan (present : Bool) {a : Nat} (ha : 2 ≤ a) (hk : a + panIdLen present + 2 ≤ n) :
      (if present then leValue 16 (buf'.readBytes a 2) else 0) =
        if present then leValue 16 (buf.readBytes a 2) else 0 :=
    ite_congr rfl (fun hp => by rw [readBytes_of_middle hbuf ha (by simpa [hp, panIdLen] using hk)]) fun _ => rfl
  unfold receivedFd
  rw [hseq, hpan p.dpan (by omega) (by omega), hpan p.span (by omega) (by omega),
    readBytes_of_middle hbuf (a := daddrAt fc p) (by omega) (by omega),
    readBytes_of_middle hbuf (a := saddrAt fc p) (by omega) (by omega),
    readBytes_of_middle hbuf (a := hdrLen fc p) (by omega) (by omega)]

end

/-- One code, or the two codes between which the FCS alone decides (60_exceptions.md R242). -/
def SameButFcs (e e' : ResultCode) : Prop :=
  e' = e ∨ (e = .success ∨ e = .fcsMismatch) ∧ (e' = .success ∨ e' = .fcsMismatch)

theorem SameButFcs.refl (e : ResultCode) : SameButFcs e e := .inl rfl

/-- A test before the FCS that both frames pass or both fail. -/
theorem SameButFcs.ite {c : Prop} [Decidable c] (x : ResultCode) {y z : ResultCode} (h : ¬c → SameButFcs y z) :
    SameButFcs (if c then x else y) (if c then x else z) := by
  split
  · exact .refl x
  · exact h ‹_›

theorem SameButFcs.fcsTest (c d : Prop) [Decidable c] [Decidable d] :
    SameButFcs (if c then .fcsMismatch else .success) (if d then .fcsMismatch else .success) := by
  unfold SameButFcs
  split <;> split <;> simp

theorem SameButFcs.code {e e' : ResultCode} (h : SameButFcs e e') :
    e'.code = e.code ∨ (e.code = 0x00 ∨ e.code = 0x07) ∧ (e'.code = 0x00 ∨ e'.code = 0x07) := by
  have hcode {x : ResultCode} (hx : x = .success ∨ x = .fcsMismatch) : x.code = 0x00 ∨ x.code = 0x07 :=
    hx.imp (congrArg _) (congrArg _)
  exact h.imp (congrArg _) (And.imp hcode hcode)

/-- Frames with one frame control and one length pass the same tests up to the FCS. -/
theorem unpackOutcome_sameButFcs {s s' : State} (hc : s'.ctrl = s.ctrl) (hn : s'.inLen = s.inLen)
    (hfc : wireFc s'.inBuf = wireFc s.inBuf) : SameButFcs (unpackOutcome s) (unpackOutcome s') := by
  simp only [unpackOutcome, State.inValid, State.fdValid, hc, hn, hfc]
  refine .ite _ fun _ => .ite _ fun _ => ?_
  rcases fcOutcome (wireFc s.inBuf) with _ | e
  · exact .ite _ fun _ => .ite _ fun _ => .fcsTest ..
  · exact .refl e

theorem unpack_result {s t : State} (h : exec .unpack s = .next t) : t.result = (unpackOutcome s).code :=
  exec_result h

/-- Where both frames are accepted, what they leave differs in FD_FCS only. -/
theorem unpack_success_of_middle {s s' t t' : State} (hn : s'.inLen = s.inLen)
    (hfc : wireFc s'.inBuf = wireFc s.inBuf)
    (hbuf : ∀ a, 2 ≤ a → a < s.inLen.toNat - 2 → s'.inBuf.read a = s.inBuf.read a)
    (h : exec .unpack s = .next t) (h' : exec .unpack s' = .next t') (h0 : t.result = 0x00) (h0' : t'.result = 0x00) :
    t'.status = t.status ∧ t'.fd = { t.fd with fcs := t'.fd.fcs } := by
  refine ⟨by rw [unpack_status h h0, unpack_status h' h0', hfc], ?_⟩
  obtain ⟨-, -, -, -, hlen, hnone, -, rfl⟩ := unpack_success h h0
  obtain ⟨-, -, -, -, -, -, -, rfl⟩ := unpack_success h' h0'
  simp only [commitUnpack, State.setResult_fd, State.setStatus_fd, State.setFd_fd, hn, hfc, inferPanIds_eq hnone]
  rw [receivedFd_of_middle hbuf hlen]

end Sys2Proof.Machine
end

section
/-! SUPPORT. The first byte of a packed frame (30_encoding.md R88). -/

namespace Sys2Proof.Machine

theorem frameBytes_length {fd : FrameDesc} {p : Presence} (hd : fd.fc.dstAddrMode ≠ .reserved)
    (hs : fd.fc.srcAddrMode ≠ .reserved) (alg : CrcAlgorithm) :
    (frameBytes alg fd p).length = hdrLen fd.fc p + fd.plen.toNat + 2 := by
  simp [frameBytes, bodyBytes_length fd p hd hs]

/-- Byte 0 of a packed frame is the low byte of its frame control. -/
theorem pack_read_zero {s t : State} (h : exec .pack s = .next t) (h0 : t.result = 0x00) :
    t.outBuf.read 0 = byteAt (fcEncode s.fd.fc) 0 := by
  obtain ⟨-, -, ⟨-, -, hd, hs, -, -⟩, hmax, -, rfl⟩ := pack_success h h0
  refine (Memory.read_writeBytes_nil ?_ 0).trans rfl
  rw [frameBytes_length hd hs]
  exact Nat.le_succ_of_le hmax

theorem byteAt_fcEncode_bit_seven (fc : FrameControl) : (byteAt (fcEncode fc) 0).getLsbD 7 = false := by
  rw [getLsbD_byteAt, fcEncode_bit_seven, Bool.and_false]

end Sys2Proof.Machine
end

section
/-! The statements of 30_encoding.md, settled. -/

namespace Sys2Proof.Machine

/-- Settles O38: the two frames have one frame control and the same fields, so that only the FCS test tells them apart;
and FcEncode, from which byte 0 of a packed frame and FD_FC are read, gives bit 7 as 0. -/
theorem unpackIgnoresBitSeven : Obligations.UnpackIgnoresBitSeven := by
  unfold Obligations.UnpackIgnoresBitSeven
  refine ⟨fun s s' t t' hc hn hb0 hb1 hbuf h h' => ?_, fcEncode_bit_seven, fun s t h h0 => ?_,
    fun s => ⟨_, rfl, byteAt_fcEncode_bit_seven s.fd.fc⟩⟩
  · have hfc := wireFc_of_bit_seven hb0 hb1
    refine ⟨?_, unpack_success_of_middle hn hfc hbuf h h'⟩
    rw [unpack_result h, unpack_result h']
    exact (unpackOutcome_sameButFcs hc hn hfc).code
  · rw [pack_read_zero h h0]
    exact byteAt_fcEncode_bit_seven s.fd.fc

/-- Settles O21: a byte write to one of the six registers replaces one byte of its value, at FD_FC through FcDecode, which
takes no notice of bit 7. -/
theorem wideWritesStoreTheValue : Obligations.WideWritesStoreTheValue := by
  unfold Obligations.WideWritesStoreTheValue
  intro s
  refine ⟨fun v => ?_,
    run_wideWrite (r := .fdDpan) (by decide) rfl (put := fun x => s.setFd { s.fd with dpan := x }) (fun _ _ _ => rfl) _,
    run_wideWrite (r := .fdSpan) (by decide) rfl (put := fun x => s.setFd { s.fd with span := x }) (fun _ _ _ => rfl) _,
    run_wideWrite (r := .fdFcs) (by decide) rfl (put := fun x => s.setFd { s.fd with fcs := x }) (fun _ _ _ => rfl) _,
    run_wideWrite (r := .fdDaddr) (by decide) rfl (put := fun x => s.setFd { s.fd with daddr := x })
      (fun _ _ _ => rfl) _,
    run_wideWrite (r := .fdSaddr) (by decide) rfl (put := fun x => s.setFd { s.fd with saddr := x })
      (fun _ _ _ => rfl) _⟩
  have hput (x : Half) (i : Nat) (b : Byte) :
      writeReg .fdFc i b (s.setFd { s.fd with fc := fcDecode x }) =
        s.setFd { s.fd with fc := fcDecode (setByteAt x i b) } :=
    congrArg (fun fc => s.setFd { s.fd with fc := fc }) (fcDecode_setByteAt_fcEncode x i b)
  have h := run_wideWrite (r := .fdFc) (by decide) rfl hput (fcEncode s.fd.fc) v
  rw [fcDecode_fcEncode] at h
  exact h

/-- Settles O22: each pair of events copies one byte, and IN_BUF ends with the first `k` bytes of OUT_BUF written. -/
theorem copyLoopsOutputBack : Obligations.CopyLoopsOutputBack := by
  unfold Obligations.CopyLoopsOutputBack
  rintro s k ⟨hin, -, -⟩ hk
  obtain ⟨b, hb⟩ := run_copyPairs k (i := 0) (by omega) s
  rw [← List.range_eq_range'] at hb
  refine ⟨_, hb, fun a => ?_, rfl⟩
  show (s.inBuf.writeBytes 0 (s.outBuf.readBytes 0 k)).read a = _
  rw [Memory.read_writeBytes hin (by simpa using hk), if_pos (Nat.zero_le a), Memory.getD_readBytes, Nat.sub_zero,
    Nat.zero_add]

/-- Settles O5: the command map is a bijection between the commands and their codes. -/
theorem commandEncodingRoundTrip : Obligations.CommandEncodingRoundTrip := by
  unfold Obligations.CommandEncodingRoundTrip
  exact ⟨fun i rest _ => decode_encode_append i rest,
    fun b rest i h => congrArg (fun c => [c]) (decode_cons_eq_ok_iff.1 h).symm⟩

/-- Settles O4: the round trip of each command with nothing after it, and the first reserved code. -/
theorem commandWordsDecode : Obligations.CommandWordsDecode := by
  unfold Obligations.CommandWordsDecode
  exact ⟨decode_encode_append .nop [], decode_encode_append .unpack [], decode_encode_append .pack [],
    decode_encode_append .resolve [], decode_encode_append .crc16 [], decode_reserved (by decide), rfl, rfl⟩

/-- Settles O47: the bounds of the six fields of a header, added up. -/
theorem headerLengthBounds : Obligations.HeaderLengthBounds := by
  unfold Obligations.HeaderLengthBounds
  rintro fc ⟨-, -, hd, hs, -, -⟩
  exact ⟨two_le_hdrLen fc _, hdrLen_le hd hs _⟩

end Sys2Proof.Machine
end

section
/-! SUPPORT. A flip of bit 7 of the word FcDecode reads (40_frame_control.md R110). -/

namespace Sys2Proof

/-- The mask of 40_frame_control.md R112 drops a flip of bit 7, for the two have no bit in common. -/
theorem xor_bit_seven_and_mask (w : Half) : (w ^^^ 0x0080) &&& 0xFF7F = w &&& 0xFF7F := by
  apply BitVec.eq_of_getLsbD_eq
  intro k _
  have hflip : (0x0080 : Half) &&& 0xFF7F = 0#16 := by decide
  rw [BitVec.getLsbD_and, BitVec.getLsbD_xor, Bool.and_xor_distrib_right, ← BitVec.getLsbD_and,
    ← BitVec.getLsbD_and, hflip, BitVec.getLsbD_zero, Bool.xor_false]

/-- A word with bit 7 flipped decodes to the same record (40_frame_control.md R110). -/
theorem fcDecode_xor_bit_seven (w : Half) : fcDecode (w ^^^ 0x0080) = fcDecode w :=
  fcDecode_eq_of_and_mask (xor_bit_seven_and_mask w)

end Sys2Proof
end

section
/-! The statements of 40_frame_control.md, settled. -/

namespace Sys2Proof.Machine

/-- Settles O15: the two laws of the codec, each a lemma about FcDecode and FcEncode. -/
theorem frameControlRoundTrip : Obligations.FrameControlRoundTrip := by
  unfold Obligations.FrameControlRoundTrip
  exact ⟨fcDecode_fcEncode, fcEncode_fcDecode⟩

/-- Settles O13: FcDecode reads each flag at its bit, each number names the value it decodes to, and a flip of bit 7 is
masked away. -/
theorem fcDecodeFields : Obligations.FcDecodeFields := by
  unfold Obligations.FcDecodeFields
  intro w
  exact ⟨FrameType.bits_ofBits _, rfl, rfl, rfl, rfl, rfl, rfl, AddrMode.bits_ofBits _, FrameVersion.bits_ofBits _,
    AddrMode.bits_ofBits _, fcDecode_xor_bit_seven w⟩

/-- Settles O14: the fields of more than one bit and bit 7 by their own lemmas. The flag at bit `i` of the word is the
flag FcDecode reads there, and FcDecode gives the record back. -/
theorem fcEncodeFields : Obligations.FcEncodeFields := by
  unfold Obligations.FcEncodeFields
  intro fc
  obtain ⟨htype, hdst, hver, hsrc⟩ := fcEncode_extractLsb' fc
  have hback := fcDecode_fcEncode fc
  exact ⟨htype, congrArg FrameControl.securityEnabled hback, congrArg FrameControl.framePending hback,
    congrArg FrameControl.ackRequest hback, congrArg FrameControl.panIdCompression hback, fcEncode_bit_seven fc,
    congrArg FrameControl.seqNumSuppressed hback, congrArg FrameControl.iePresent hback, hdst, hver, hsrc⟩

end Sys2Proof.Machine
end

section
/-! SUPPORT. The resolver version by version, for any table (41_resolver.md R130 to R132), and how RESOLVE ends
(R136). -/

namespace Sys2Proof.Machine

/-- Past its two guards Resolve is the old rule for versions 0b00 and 0b01, whatever the table. -/
theorem resolve_eq_resolveV01 {fver : FrameVersion} {dam sam : AddrMode} (hv : fver = .v00 ∨ fver = .v01)
    (hd : dam ≠ .reserved) (hs : sam ≠ .reserved) (table : List PanIdRow) (panc : Bool) :
    resolve table fver dam sam panc = .ok (resolveV01 dam sam panc) := by
  have hmodes : ¬(dam = .reserved ∨ sam = .reserved) := not_or.2 ⟨hd, hs⟩
  rcases hv with rfl | rfl <;> simp [resolve, hmodes]

/-- Past its two guards Resolve is the search of the table for version 0b10. -/
theorem resolve_v10_eq_resolveV2 {dam sam : AddrMode} (hd : dam ≠ .reserved) (hs : sam ≠ .reserved)
    (table : List PanIdRow) (panc : Bool) : resolve table .v10 dam sam panc = resolveV2 table dam sam panc := by
  have hmodes : ¬(dam = .reserved ∨ sam = .reserved) := not_or.2 ⟨hd, hs⟩
  simp [resolve, hmodes]

/-- The source PAN ID goes with its mode, but for both modes present with compression set (41_resolver.md R131). -/
theorem resolveV01_eq (dam sam : AddrMode) (panc : Bool) :
    resolveV01 dam sam panc =
      ⟨decide (dam ≠ .none), decide (sam ≠ .none ∧ ¬(dam ≠ .none ∧ panc = true))⟩ := by
  cases panc with
  | false => simp [resolveV01]
  | true => by_cases hd : dam = .none <;> by_cases hs : sam = .none <;> simp [resolveV01, hd, hs]

theorem rowMatches_iff {dam sam : AddrMode} {panc : Bool} {r : PanIdRow} :
    rowMatches dam sam panc r = true ↔ (r.dam, r.sam, r.panc) = (dam, sam, panc) := by
  simp [rowMatches]

/-- A search passes over rows of other triples. -/
theorem find?_rowMatches_eq_none {table : List PanIdRow} {dam sam : AddrMode} {panc : Bool}
    (h : ∀ q ∈ table, (q.dam, q.sam, q.panc) ≠ (dam, sam, panc)) :
    table.find? (rowMatches dam sam panc) = none :=
  List.find?_eq_none.2 fun q hq hm => h q hq (rowMatches_iff.1 hm)

theorem resolveV2_first_match {before : List PanIdRow} {r : PanIdRow}
    (h : ∀ q ∈ before, (q.dam, q.sam, q.panc) ≠ (r.dam, r.sam, r.panc)) (after : List PanIdRow) :
    resolveV2 (before ++ r :: after) r.dam r.sam r.panc = .ok ⟨r.dpanPresent, r.spanPresent⟩ := by
  have hfind : (before ++ r :: after).find? (rowMatches r.dam r.sam r.panc) = some r := by
    rw [List.find?_append, find?_rowMatches_eq_none h, Option.none_or, List.find?_cons_of_pos (rowMatches_iff.2 rfl)]
  rw [resolveV2, hfind]

theorem resolveV2_no_match {table : List PanIdRow} {dam sam : AddrMode} {panc : Bool}
    (h : ∀ q ∈ table, (q.dam, q.sam, q.panc) ≠ (dam, sam, panc)) :
    resolveV2 table dam sam panc = .error .invalidAddressingMode := by
  rw [resolveV2, find?_rowMatches_eq_none h]

theorem exec_resolve_of_ok {s : State} {p : Presence} (h : resolveFc standard s.fd.fc = .ok p) :
    exec .resolve s = .next (commitResolve p s) := by
  simp only [exec, execResolve, resolveWith, h, conclude]

theorem exec_resolve_of_error {s : State} {e : ResultCode} (h : resolveFc standard s.fd.fc = .error e) :
    exec .resolve s = .next ((s.setStatus 0).setResult e) := by
  simp only [exec, execResolve, resolveWith, h, conclude, raise]

/-- STATUS with nothing inferred, bit by bit: the PRESENT pair under two zeros (10_state.md R29). -/
theorem statusOf_present_only (p : Presence) :
    statusOf p false false = 0#1 ++ 0#1 ++ BitVec.ofBool p.span ++ BitVec.ofBool p.dpan := by
  obtain ⟨dpan, span⟩ := p
  cases dpan <;> cases span <;> rfl

end Sys2Proof.Machine
end

section
/-! The statements of 41_resolver.md, settled. -/

namespace Sys2Proof.Machine

/-- Settles O24: for version 0b10 Resolve is the search of the table, which passes over every row of another triple and
stops at the first of this one. -/
theorem resolveTakesFirstMatch : Obligations.ResolveTakesFirstMatch := by
  unfold Obligations.ResolveTakesFirstMatch
  refine ⟨fun before after r hd hs hbefore => ?_, fun table dam sam panc hd hs hnone => ?_⟩
  · rw [resolve_v10_eq_resolveV2 hd hs]
    exact resolveV2_first_match hbefore after
  · rw [resolve_v10_eq_resolveV2 hd hs]
    exact resolveV2_no_match hnone

/-- Settles O23: Resolve answers the old rule's pair, whose closed form decides the two conditions. -/
theorem resolveOldVersions : Obligations.ResolveOldVersions := by
  unfold Obligations.ResolveOldVersions
  intro table fver dam sam panc hv hd hs
  rw [resolve_eq_resolveV01 hv hd hs, resolveV01_eq]
  exact ⟨_, rfl, decide_eq_true_iff, decide_eq_true_iff⟩

/-- Settles O25: the closed form of the resolver under the default table. -/
theorem resolveFullTable : Obligations.ResolveFullTable := by
  unfold Obligations.ResolveFullTable
  intro fver dam sam panc hv hd hs
  exact resolve_standard panc hv hd hs

/-- Settles O26: the three ends of the resolver under the default table, each with what RESOLVE makes of it. -/
theorem resolveCommand : Obligations.ResolveCommand := by
  unfold Obligations.ResolveCommand
  refine ⟨fun s hv hd hs => ?_, fun s hv => ?_, fun s hv hm => ?_⟩
  · rw [exec_resolve_of_ok (resolveFc_standard hv hd hs), commitResolve, statusOf_present_only]
    rfl
  · have hfc : resolveFc standard s.fd.fc = .error .invalidFrameVersion := by rw [resolveFc_eq, if_pos hv]
    exact exec_resolve_of_error hfc
  · have hfc : resolveFc standard s.fd.fc = .error .invalidAddressingMode := by
      rw [resolveFc_eq, if_neg hv, if_pos hm]
    exact exec_resolve_of_error hfc

end Sys2Proof.Machine
end

section
/-! SUPPORT. The two PAN IDs of a received frame (42_serializer.md R160 to R162): when each is inferred, that an inferred
one is absent from the wire, and that no frame UNPACK accepts has both inferred. -/

namespace Sys2Proof.Machine

theorem infersDpan_iff {fc : FrameControl} :
    infersDpan fc = true ↔ (fc.frameVersion = .v00 ∨ fc.frameVersion = .v01) ∧
      (fc.frameType = .data ∨ fc.frameType = .command) ∧ fc.dstAddrMode = .none := by
  simp only [infersDpan, isV01, isDataOrCommand, Bool.and_eq_true, decide_eq_true_eq, and_assoc]

theorem infersSpan_iff {fc : FrameControl} :
    infersSpan fc = true ↔ (fc.frameVersion = .v00 ∨ fc.frameVersion = .v01) ∧
      ((fc.frameType = .data ∨ fc.frameType = .command) ∧ fc.srcAddrMode = .none ∨
        fc.dstAddrMode ≠ .none ∧ fc.srcAddrMode ≠ .none ∧ fc.panIdCompression = true) := by
  simp only [infersSpan, isV01, isDataOrCommand, Bool.and_eq_true, Bool.or_eq_true, decide_eq_true_eq, and_assoc]

/-- At most one PAN ID is inferred: the destination's needs its mode none, and there the source's needs its own mode none
too, which is the rejected both-none case (42_serializer.md R161). -/
theorem not_infersDpan_and_infersSpan {fc : FrameControl} (hnone : bothNone fc = false) :
    ¬(infersDpan fc = true ∧ infersSpan fc = true) := by
  rintro ⟨hdpan, hspan⟩
  obtain ⟨hv, ht, hd⟩ := infersDpan_iff.1 hdpan
  rcases (infersSpan_iff.1 hspan).2 with ⟨-, hs⟩ | ⟨hd', -, -⟩
  · simp [bothNone, isV01, isDataOrCommand, hv, ht, hd, hs] at hnone
  · exact hd' hd

/-- The resolver's closed form for versions 0b00 and 0b01 is their rule (41_resolver.md R131). -/
theorem fcPresence_eq_resolveV01 {fc : FrameControl} (hfc : acceptedFc fc)
    (hv : fc.frameVersion = .v00 ∨ fc.frameVersion = .v01) :
    fcPresence fc = resolveV01 fc.dstAddrMode fc.srcAddrMode fc.panIdCompression := by
  obtain ⟨hv11, -, hd, hs, -, -⟩ := hfc
  exact Except.ok.inj ((resolve_standard _ hv11 hd hs).symm.trans (resolve_eq_resolveV01 hv hd hs _ _))

/-- 42_serializer.md R164 for the destination: its PAN ID is inferred where its mode is none, and then it is not
on the wire. -/
theorem not_dpan_present_and_inferred {fc : FrameControl} (hfc : acceptedFc fc) :
    ¬((fcPresence fc).dpan = true ∧ infersDpan fc = true) := by
  rintro ⟨hp, hi⟩
  obtain ⟨hv, -, hd⟩ := infersDpan_iff.1 hi
  simp [fcPresence_eq_resolveV01 hfc hv, resolveV01_eq, hd] at hp

/-- 42_serializer.md R164 for the source: its PAN ID is inferred where its mode is none or compression drops it, and then
it is not on the wire. -/
theorem not_span_present_and_inferred {fc : FrameControl} (hfc : acceptedFc fc) :
    ¬((fcPresence fc).span = true ∧ infersSpan fc = true) := by
  rintro ⟨hp, hi⟩
  obtain ⟨hv, ⟨-, hs⟩ | ⟨hd, -, hpanc⟩⟩ := infersSpan_iff.1 hi
  · simp [fcPresence_eq_resolveV01 hfc hv, resolveV01_eq, hs] at hp
  · simp [fcPresence_eq_resolveV01 hfc hv, resolveV01_eq, hd, hpanc] at hp

end Sys2Proof.Machine
end

section
/-! SUPPORT. The FD after a successful UNPACK (44_facades.md R201 step 12): the received fields, and in an inferred PAN ID
register the other one's. -/

namespace Sys2Proof.Machine

/-- The received fields of the frame a state holds (30_encoding.md R93). -/
def State.wireFd (s : State) : FrameDesc :=
  receivedFd s.inBuf s.inLen.toNat (wireFc s.inBuf) (fcPresence (wireFc s.inBuf))

theorem unpack_fd {s t : State} (h : exec .unpack s = .next t) (h0 : t.result = 0x00) :
    t.fd = { s.wireFd with
      dpan := if infersDpan (wireFc s.inBuf) then s.wireFd.span else s.wireFd.dpan
      span := if infersSpan (wireFc s.inBuf) then s.wireFd.dpan else s.wireFd.span } := by
  obtain ⟨-, -, -, -, -, hnone, -, rfl⟩ := unpack_success h h0
  simp only [commitUnpack, inferPanIds_eq hnone]
  rfl

theorem wireFd_dpan (s : State) :
    s.wireFd.dpan =
      if (fcPresence (wireFc s.inBuf)).dpan = true then
        leValue 16 [s.inBuf.read (dpanAt (wireFc s.inBuf)), s.inBuf.read (dpanAt (wireFc s.inBuf) + 1)]
      else 0 := rfl

theorem wireFd_span (s : State) :
    s.wireFd.span =
      if (fcPresence (wireFc s.inBuf)).span = true then
        leValue 16 [s.inBuf.read (spanAt (wireFc s.inBuf) (fcPresence (wireFc s.inBuf))),
          s.inBuf.read (spanAt (wireFc s.inBuf) (fcPresence (wireFc s.inBuf)) + 1)]
      else 0 := rfl

theorem wireFd_plen (s : State) :
    s.wireFd.plen.toNat = s.inLen.toNat - hdrLen (wireFc s.inBuf) (fcPresence (wireFc s.inBuf)) - 2 := by
  have hn : s.inLen.toNat < 256 := s.inLen.isLt
  exact (BitVec.toNat_ofNat ..).trans (Nat.mod_eq_of_lt (by omega))

/-- FD_PAYLOAD of a frame that fits IN_BUF: what lies between the header and the FCS, 0x00 past it
(42_serializer.md R156). -/
theorem read_wireFd_payload {s : State} (hn : s.inLen.toNat ≤ bufferSize) (a : Nat) :
    s.wireFd.payload.read a =
      if a < s.wireFd.plen.toNat then
        s.inBuf.read (hdrLen (wireFc s.inBuf) (fcPresence (wireFc s.inBuf)) + a)
      else 0x00 := by
  rw [wireFd_plen]
  exact (Memory.read_writeBytes_nil (by rw [Memory.readBytes_length]; omega) a).trans (Memory.getD_readBytes ..)

end Sys2Proof.Machine
end

section
/-! The statements of 42_serializer.md, settled. -/

namespace Sys2Proof.Machine

/-- Settles O36: STATUS and the FD in closed form; an inferred PAN ID is absent from the wire, and where one is inferred
the other register keeps what was received. -/
theorem unpackStatusLaws : Obligations.UnpackStatusLaws := by
  unfold Obligations.UnpackStatusLaws
  intro s t h h0
  obtain ⟨-, -, -, hfc, -, hnone, -, -⟩ := unpack_success h h0
  obtain ⟨hdp, hsp, hdi, hsi⟩ := flags_of_status (unpack_status h h0)
  have hdpan := not_dpan_present_and_inferred hfc
  have hspan := not_span_present_and_inferred hfc
  have hboth := not_infersDpan_and_infersSpan hnone
  simp only [hdp, hsp, hdi, hsi, unpack_fd h h0]
  refine ⟨trivial, trivial, infersDpan_iff, infersSpan_iff, fun hp => ?_, fun hp => ?_, fun hi => ?_, fun hi => ?_,
    fun hp hi => ?_, fun hp hi => ?_, hdpan, hspan⟩
  · rw [if_neg fun hi => hdpan ⟨hp, hi⟩, wireFd_dpan, if_pos hp]
  · rw [if_neg fun hi => hspan ⟨hp, hi⟩, wireFd_span, if_pos hp]
  · rw [if_pos hi, if_neg fun hi' => hboth ⟨hi, hi'⟩]
  · rw [if_pos hi, if_neg fun hi' => hboth ⟨hi', hi⟩]
  · rw [if_neg (Bool.eq_false_iff.1 hi), wireFd_dpan, if_neg (Bool.eq_false_iff.1 hp)]
  · rw [if_neg (Bool.eq_false_iff.1 hi), wireFd_span, if_neg (Bool.eq_false_iff.1 hp)]

/-- Settles O37: FD_PLEN is what the header and the FCS leave of IN_LEN, so 124 of at most 128 bytes leave a header of
two; the FCS test compared FD_FCS with the CRC. -/
theorem unpackPayloadAndFcs : Obligations.UnpackPayloadAndFcs := by
  unfold Obligations.UnpackPayloadAndFcs
  intro s t h h0
  obtain ⟨-, -, hn, ⟨-, -, hd, hs, -, -⟩, hlen, -, hcrc, -⟩ := unpack_success h h0
  have hhdr := two_le_hdrLen (wireFc s.inBuf) (fcPresence (wireFc s.inBuf))
  have hfc : s.wireFd.fc = wireFc s.inBuf := rfl
  have hplen := wireFd_plen s
  simp only [unpack_fd h h0, hfc]
  refine ⟨by omega, fun hmax => ?_, by omega, read_wireFd_payload hn, hcrc.symm⟩
  obtain ⟨hseq, hdst, hsrc, -⟩ := (hdrLen_eq_two_iff hd hs (fcPresence (wireFc s.inBuf))).1 (by omega)
  exact ⟨hseq, hdst, hsrc⟩

end Sys2Proof.Machine
end

section
/-! SUPPORT. The CRC register as a map of the bytes (43_fcs.md R186): linear over XOR, injective in each byte, and 0 after
the register's own two bytes. -/

namespace Sys2Proof.Machine

theorem crcFold_xor {a b : List Byte} (h : a.length = b.length) (c d : Half) :
    crcFold (c ^^^ d) (List.zipWith (· ^^^ ·) a b) = crcFold c a ^^^ crcFold d b := by
  induction a generalizing b c d with
  | nil =>
    obtain rfl := List.length_eq_zero_iff.1 h.symm
    rfl
  | cons x a ih =>
    obtain ⟨y, b, rfl⟩ := List.exists_cons_of_length_eq_add_one h.symm
    simp only [crcFold, List.zipWith_cons_cons, List.foldl_cons, crcByte_xor]
    exact ih (Nat.succ.inj h) _ _

theorem setWidth_byte_inj {a b : Byte} (h : a.setWidth 16 = b.setWidth 16) : a = b := by
  simpa using congrArg (BitVec.setWidth 8) h

/-- One register value keeps different bytes apart. -/
theorem crcByte_byte_inj {c : Half} {a b : Byte}
    (h : crcByte standardCrc.polynomial c a = crcByte standardCrc.polynomial c b) : a = b :=
  setWidth_byte_inj ((BitVec.xor_right_inj _).1 (crcBits_inj h))

/-- Sequences of one length that differ in one byte only have different CRCs. -/
theorem crc16_ne_of_byte_ne (before after : List Byte) {a b : Byte} (h : a ≠ b) :
    crc16 standardCrc (before ++ a :: after) ≠ crc16 standardCrc (before ++ b :: after) := by
  rw [crc16_append, crc16_append]
  exact fun heq => h (crcByte_byte_inj (crcFold_inj heq))

theorem flip_bit_ne (b : Byte) {j : Nat} (hj : j < 8) : b ^^^ (1#8 <<< j) ≠ b := by
  intro h
  have hbit := congrArg (·.getLsbD j) h
  simp [hj] at hbit

theorem setWidth_byte_ushiftRight (b : Byte) : b.setWidth 16 >>> 8 = 0#16 := by
  apply BitVec.eq_of_getLsbD_eq
  intro k _
  rw [BitVec.getLsbD_ushiftRight, BitVec.getLsbD_setWidth, BitVec.getLsbD_of_ge b _ (Nat.le_add_right 8 k),
    Bool.and_false, BitVec.getLsbD_zero]

/-- With its low byte cleared the register is only shifted. -/
theorem crcBits_eight_low_cleared (p x : Half) :
    crcBits p 8 (x ^^^ (x.setWidth 8).setWidth 16) = x >>> 8 := by
  have hlow : ∀ i, i < 8 → (x ^^^ (x.setWidth 8).setWidth 16).getLsbD i = false := fun i hi => by
    simp [hi, show i < 16 by omega]
  rw [crcBits_of_low_zero p hlow, BitVec.ushiftRight_xor_distrib, setWidth_byte_ushiftRight, BitVec.xor_zero]

theorem byteAt_one_setWidth (v : Half) : (byteAt v 1).setWidth 16 = v >>> 8 := by
  apply BitVec.eq_of_getLsbD_eq
  intro k hk
  rw [BitVec.getLsbD_setWidth, getLsbD_byteAt, BitVec.getLsbD_ushiftRight]
  by_cases h8 : k < 8
  · simp [hk, h8]
  · simp [h8, BitVec.getLsbD_of_ge v (8 + k) (by omega)]

/-- The low byte of the register, consumed, leaves the high one. -/
theorem crcByte_byteAt_zero (p v : Half) : crcByte p v (byteAt v 0) = (byteAt v 1).setWidth 16 := by
  have hlow : byteAt v 0 = v.setWidth 8 := (BitVec.setWidth_eq_extractLsb' (by decide)).symm
  rw [crcByte, hlow, crcBits_eight_low_cleared, byteAt_one_setWidth]

/-- A register that holds one byte goes to 0 on that byte. -/
theorem crcByte_self (p : Half) (b : Byte) : crcByte p (b.setWidth 16) b = 0 := by
  rw [crcByte, BitVec.xor_self, crcBits_of_low_zero p fun i _ => BitVec.getLsbD_zero]
  rfl

/-- The two bytes of the register, little-endian, take it to 0. -/
theorem crcFold_bytesLE_self (v : Half) : crcFold v (bytesLE 2 v) = 0 :=
  calc crcFold v (bytesLE 2 v)
      = crcByte standardCrc.polynomial (crcByte standardCrc.polynomial v (byteAt v 0)) (byteAt v 1) := rfl
    _ = 0 := by rw [crcByte_byteAt_zero, crcByte_self]

end Sys2Proof.Machine
end

section
/-! SUPPORT. The table form of Crc16 (43_fcs.md R182): a byte of the bitwise form shifts the register's high byte down and
adds the CRC of the low one. -/

namespace Sys2Proof.Machine

/-- The literal table, computed: its 256 entries are the CRCs of the 256 bytes. -/
theorem crcTable_eq_map : crcTable = (List.range 256).map fun i => crc16 standardCrc [BitVec.ofNat 8 i] := by
  decide +kernel

theorem crcTable_getElem? (b : Byte) : crcTable[b.toNat]? = some (crc16 standardCrc [b]) := by
  rw [crcTable_eq_map, List.getElem?_map, List.getElem?_range b.isLt, Option.map_some, BitVec.ofNat_toNat,
    BitVec.setWidth_eq]

theorem crc16_byte (b : Byte) : crc16 standardCrc [b] = crcBits standardCrc.polynomial 8 (b.setWidth 16) := by
  rw [crc16_standard]
  simp [crcFold, crcByte]

/-- Eight bits of Crc16: the high byte is shifted down, and the low byte adds its own eight bits of Crc16. -/
theorem crcBits_eight_eq (p x : Half) :
    crcBits p 8 x = (x >>> 8) ^^^ crcBits p 8 ((x.setWidth 8).setWidth 16) := by
  rw [← crcBits_eight_low_cleared p x, ← crcBits_xor, BitVec.xor_assoc, BitVec.xor_self, BitVec.xor_zero]

/-- The table's index is the low byte of the register (43_fcs.md R182). -/
theorem crcTable_getD_low_byte (x : Half) :
    crcTable.getD (x &&& 0xFF).toNat 0 =
      crcBits standardCrc.polynomial 8 ((x.setWidth 8).setWidth 16) := by
  have hindex : (x &&& 0xFF).toNat = (x.setWidth 8).toNat := by
    rw [BitVec.toNat_and, BitVec.toNat_setWidth]
    exact Nat.and_two_pow_sub_one_eq_mod x.toNat 8
  rw [hindex, List.getD_eq_getElem?_getD, crcTable_getElem?, Option.getD_some, crc16_byte]

/-- One byte of the table form is one byte of the bitwise form. -/
theorem crcTableByte_eq (c : Half) (b : Byte) : crcTableByte c b = crcByte standardCrc.polynomial c b := by
  have hhigh : (c ^^^ b.setWidth 16) >>> 8 = c >>> 8 := by
    rw [BitVec.ushiftRight_xor_distrib, setWidth_byte_ushiftRight, BitVec.xor_zero]
  rw [crcTableByte, crcTable_getD_low_byte, ← hhigh, ← crcBits_eight_eq, crcByte]

end Sys2Proof.Machine
end

section
/-! SUPPORT. UNPACK of a frame with a damaged payload byte (43_fcs.md R186): the header and the FCS are as they were, so
only the FCS test can fail, and it does. -/

namespace Sys2Proof.Machine

/-- A run of bytes, split at one of them. -/
theorem Memory.readBytes_split (m : Memory) {a n : Nat} (h : a < n) :
    m.readBytes 0 n = m.readBytes 0 a ++ m.read a :: m.readBytes (a + 1) (n - a - 1) := by
  obtain ⟨k, rfl⟩ : ∃ k, n = a + (k + 1) := ⟨n - a - 1, by omega⟩
  rw [Memory.readBytes_add, Memory.readBytes_succ, Nat.zero_add, show a + (k + 1) - a - 1 = k by omega]

section
variable {buf buf' : Memory} {a : Nat} (hbuf : ∀ b, b ≠ a → buf'.read b = buf.read b)
include hbuf

theorem readBytes_of_ne {b k : Nat} (h : a < b ∨ b + k ≤ a) : buf'.readBytes b k = buf.readBytes b k :=
  Memory.readBytes_congr fun i hi hlt => hbuf i (by omega)

theorem crc16_readBytes_ne {n : Nat} (ha : a < n) (hne : buf'.read a ≠ buf.read a) :
    crc16 standardCrc (buf'.readBytes 0 n) ≠ crc16 standardCrc (buf.readBytes 0 n) := by
  rw [Memory.readBytes_split buf' ha, Memory.readBytes_split buf ha, readBytes_of_ne hbuf (b := 0) (by omega),
    readBytes_of_ne hbuf (b := a + 1) (by omega)]
  exact crc16_ne_of_byte_ne _ _ hne

end

/-- The payload of an accepted frame lies past its frame control (30_encoding.md R90). -/
theorem two_le_payload_start {s t : State} (h : exec .unpack s = .next t) (h0 : t.result = 0x00) :
    2 ≤ s.inLen.toNat - 2 - t.fd.plen.toNat := by
  obtain ⟨-, -, -, -, hlen, -⟩ := unpack_success h h0
  have hplen : t.fd.plen = s.wireFd.plen := by rw [unpack_fd h h0]
  have hhdr := two_le_hdrLen (wireFc s.inBuf) (fcPresence (wireFc s.inBuf))
  rw [hplen, wireFd_plen]
  omega

theorem unpackOutcome_of_result {s t : State} (h : exec .unpack s = .next t) (h0 : t.result = 0x00) :
    unpackOutcome s = .success :=
  code_eq_zero ((unpack_result h).symm.trans h0)

/-- A frame with the outcome SUCCESS passed the FCS test. -/
theorem fcs_of_unpackOutcome {s : State} (h : unpackOutcome s = .success) :
    crc16 standardCrc (s.inBuf.readBytes 0 (s.inLen.toNat - 2)) =
      leValue 16 (s.inBuf.readBytes (s.inLen.toNat - 2) 2) := by
  obtain ⟨t, ht⟩ := exec_next .unpack s
  obtain ⟨-, -, -, -, -, -, hcrc, -⟩ := unpack_success ht ((unpack_result ht).trans (congrArg _ h))
  exact hcrc

/-- UNPACK with the outcome FCS_MISMATCH (60_exceptions.md R241). -/
theorem exec_unpack_of_fcsMismatch {s : State} (h : unpackOutcome s = .fcsMismatch) :
    exec .unpack s = .next (((s.setFd .zero).setStatus 0).setResult .fcsMismatch) := by
  rw [← outcomeCode_unpackSteps] at h
  rw [exec_unpack_eq]
  rcases hu : unpackSteps standard s with e | u
  · obtain rfl : e = .fcsMismatch := by simpa [hu] using h
    rfl
  · simp [hu] at h

/-- Of two frames of one header and one FCS, one accepted and one of another CRC, the other is reported. -/
theorem unpackOutcome_of_crc_ne {s s' : State} (hok : unpackOutcome s = .success) (hc : s'.ctrl = s.ctrl)
    (hn : s'.inLen = s.inLen) (hfc : wireFc s'.inBuf = wireFc s.inBuf)
    (hfcs : s'.inBuf.readBytes (s.inLen.toNat - 2) 2 = s.inBuf.readBytes (s.inLen.toNat - 2) 2)
    (hcrc : crc16 standardCrc (s'.inBuf.readBytes 0 (s.inLen.toNat - 2)) ≠
      crc16 standardCrc (s.inBuf.readBytes 0 (s.inLen.toNat - 2))) : unpackOutcome s' = .fcsMismatch := by
  have hbad : unpackOutcome s' ≠ .success := fun hok' => by
    have hcrc' := fcs_of_unpackOutcome hok'
    rw [hn, hfcs, ← fcs_of_unpackOutcome hok] at hcrc'
    exact hcrc hcrc'
  rcases unpackOutcome_sameButFcs hc hn hfc with hsame | ⟨-, hok' | hmis⟩
  · exact absurd (hsame.trans hok) hbad
  · exact absurd hok' hbad
  · exact hmis

end Sys2Proof.Machine
end

section
/-! The statements of 43_fcs.md, settled. -/

namespace Sys2Proof.Machine

/-- Settles O28: the table is checked entry by entry once, and a byte of the one form is a byte of the other. -/
theorem crcTableFormAgrees : Obligations.CrcTableFormAgrees := by
  unfold Obligations.CrcTableFormAgrees
  refine ⟨fun bytes => ?_, crcTable_getElem?⟩
  have hbyte : crcTableByte = crcByte standardCrc.polynomial := funext₂ crcTableByte_eq
  rw [crc16_standard, crc16ByTable, hbyte]

/-- Settles O29: the two bytes of the CRC meet a register that holds that CRC, and take it to 0. -/
theorem crcResidueIsZero : Obligations.CrcResidueIsZero := by
  unfold Obligations.CrcResidueIsZero
  intro bytes
  rw [crc16_append]
  exact crcFold_bytesLE_self _

/-- Settles O30: a flipped bit is another byte, which the register keeps apart to the end. -/
theorem crcDetectsOneBit : Obligations.CrcDetectsOneBit := by
  unfold Obligations.CrcDetectsOneBit
  intro before after b j hj
  exact crc16_ne_of_byte_ne before after (flip_bit_ne b hj)

/-- Settles O31: the register is linear, from the initial value 0, which is 0 ^^^ 0. -/
theorem crcIsLinear : Obligations.CrcIsLinear := by
  unfold Obligations.CrcIsLinear
  intro a b h
  rw [crc16_standard, crc16_standard, crc16_standard]
  exact crcFold_xor h 0 0

/-- Settles O41: the flipped byte lies between the frame control and the FCS and changes the CRC of what the FCS covers. -/
theorem unpackDetectsPayloadBitFlip : Obligations.UnpackDetectsPayloadBitFlip := by
  unfold Obligations.UnpackDetectsPayloadBitFlip
  intro s s' t a j h h0 hlo hhi hj hc hn hbuf hflip
  have hstart := two_le_payload_start h h0
  have hfc : wireFc s'.inBuf = wireFc s.inBuf :=
    wireFc_of_agree (n := a) (fun b hb => hbuf b (Nat.ne_of_lt hb)) (by omega)
  have hne : s'.inBuf.read a ≠ s.inBuf.read a := hflip ▸ flip_bit_ne _ hj
  exact exec_unpack_of_fcsMismatch <| unpackOutcome_of_crc_ne (unpackOutcome_of_result h h0) hc hn hfc
    (readBytes_of_ne hbuf (.inl hhi)) (crc16_readBytes_ne hbuf hhi hne)

/-- Settles O27: CRC16 answers in every state, and the length decides between its two ends. -/
theorem crc16Command : Obligations.Crc16Command := by
  unfold Obligations.Crc16Command
  refine ⟨fun s hs => ?_, fun s hs => ?_⟩
  all_goals
    obtain ⟨t, ht⟩ := exec_next .crc16 s
    rw [ht]
  · rcases crc16_cases ht with ⟨hlong, -⟩ | ⟨-, rfl⟩
    · omega
    · rfl
  · rcases crc16_cases ht with ⟨-, rfl⟩ | ⟨hshort, -⟩
    · rfl
    · omega

end Sys2Proof.Machine
end

section
/-! SUPPORT. The converses of the two success lemmas: a command whose frame passes every test ends in the state of its last
step (44_facades.md R201, R211). -/

namespace Sys2Proof.Machine

/-- No frame-control test rejects an accepted frame control (30_encoding.md R91). -/
theorem fcOutcome_of_accepted {fc : FrameControl} (h : acceptedFc fc) : fcOutcome fc = none := by
  obtain ⟨hv, ht, hm, hu⟩ := (acceptedFc_iff fc).1 h
  rw [fcOutcome, if_neg hv, if_neg (mt (rejectedType_iff _).2 ht), if_neg hm, if_neg hu]

theorem unpackOutcome_of_accepted {s : State} (hiv : s.inValid = true) (hfv : s.fdValid = true)
    (hmax : s.inLen.toNat ≤ 128) (hfc : acceptedFc (wireFc s.inBuf))
    (hlen : hdrLen (wireFc s.inBuf) (fcPresence (wireFc s.inBuf)) + 2 ≤ s.inLen.toNat)
    (hnone : bothNone (wireFc s.inBuf) = false)
    (hcrc : crc16 standardCrc (s.inBuf.readBytes 0 (s.inLen.toNat - 2)) =
      leValue 16 (s.inBuf.readBytes (s.inLen.toNat - 2) 2)) : unpackOutcome s = .success := by
  rw [unpackOutcome, if_neg (by simp [hiv, hfv]), if_neg (by omega), fcOutcome_of_accepted hfc, Option.getD_none,
    if_neg (by omega), if_neg (by simp [hnone]), if_neg (not_not_intro hcrc)]

theorem exec_unpack_of_success {s : State} (h : unpackOutcome s = .success) :
    exec .unpack s = .next (commitUnpack ⟨fcPresence (wireFc s.inBuf), inferPanIds (wireFc s.inBuf) s.wireFd⟩ s) := by
  obtain ⟨t, ht⟩ := exec_next .unpack s
  obtain ⟨-, -, -, -, -, -, -, rfl⟩ := unpack_success ht ((unpack_result ht).trans (congrArg _ h))
  exact ht

theorem packOutcome_of_accepted {s : State} (hfv : s.fdValid = true) (hov : s.outValid = true)
    (hfc : acceptedFc s.fd.fc) (hnone : bothNone s.fd.fc = false)
    (hmax : hdrLen s.fd.fc (fcPresence s.fd.fc) + s.fd.plen.toNat + 2 ≤ 127) : packOutcome s = .success := by
  rw [packOutcome, if_neg (by simp [hfv, hov]), fcOutcome_of_accepted hfc, Option.getD_none, if_neg (by omega),
    if_neg (by simp [hnone])]

theorem pack_result {s t : State} (h : exec .pack s = .next t) : t.result = (packOutcome s).code :=
  exec_result h

theorem exec_pack_of_success {s : State} (h : packOutcome s = .success) :
    exec .pack s = .next (commitPack ⟨fcPresence s.fd.fc, packLength s.fd (fcPresence s.fd.fc),
      Memory.writeBytes [] 0 (frameBytes standardCrc s.fd (fcPresence s.fd.fc))⟩ s) := by
  obtain ⟨t, ht⟩ := exec_next .pack s
  obtain ⟨-, -, -, -, -, rfl⟩ := pack_success ht ((pack_result ht).trans (congrArg _ h))
  exact ht

/-- STATUS bit by bit, the highest first (10_state.md R29). -/
theorem statusOf_eq_append (p : Presence) (dinf sinf : Bool) :
    statusOf p dinf sinf =
      BitVec.ofBool sinf ++ BitVec.ofBool dinf ++ BitVec.ofBool p.span ++ BitVec.ofBool p.dpan := by
  obtain ⟨dpan, span⟩ := p
  cases sinf <;> cases dinf <;> cases span <;> cases dpan <;> rfl

end Sys2Proof.Machine
end

section
/-! SUPPORT. Runs of bytes in a frame space, and where the fields of a frame lie (30_encoding.md R88 to R90). -/

namespace Sys2Proof.Machine

/-- The bytes `bs` stand in the frame space from address `a` on. -/
def Memory.holdsAt (m : Memory) (a : Nat) (bs : List Byte) : Prop := m.readBytes a bs.length = bs

theorem Memory.holdsAt_append {m : Memory} {a : Nat} {bs cs : List Byte} :
    m.holdsAt a (bs ++ cs) ↔ m.holdsAt a bs ∧ m.holdsAt (a + bs.length) cs := by
  rw [Memory.holdsAt, List.length_append, Memory.readBytes_add]
  exact List.append_eq_append_iff_of_size_eq_left (Memory.readBytes_length ..)

theorem Memory.holdsAt_of_agree {m m' : Memory} {bs : List Byte} (h : m.holdsAt 0 bs)
    (hm : ∀ a, a < bs.length → m'.read a = m.read a) : m'.holdsAt 0 bs :=
  (readBytes_of_agree hm (by omega)).trans h

/-- An address as it comes back from the wire (42_serializer.md R153, R158): of a short one the low 16 bits, of an absent
one nothing. -/
def sentAddr (mode : AddrMode) (v : Addr) : Addr :=
  match mode with
  | .short => (v.setWidth 16).setWidth 64
  | .extended => v
  | .none => 0
  | .reserved => 0

theorem byteAt_setWidth {w k i : Nat} (v : BitVec w) (h : 8 * i + 8 ≤ k) : byteAt (v.setWidth k) i = byteAt v i := by
  apply BitVec.eq_of_getLsbD_eq
  intro j hj
  rw [getLsbD_byteAt, getLsbD_byteAt, BitVec.getLsbD_setWidth, decide_eq_true (show 8 * i + j < k by omega),
    Bool.true_and]

/-- The low two bytes of an address make up its low 16 bits. -/
theorem leValue_bytesLE_two (v : Addr) : leValue 64 (bytesLE 2 v) = (v.setWidth 16).setWidth 64 := by
  have hlow : bytesLE 2 v = bytesLE 2 (v.setWidth 16) :=
    List.map_congr_left fun i hi => (byteAt_setWidth v (by have := List.mem_range.1 hi; omega)).symm
  rw [hlow, ← setWidth_leValue (w := 16) _ (by simp), leValue_bytesLE 2 _ (by decide)]

theorem leValue_addrBytes (mode : AddrMode) (v : Addr) : leValue 64 (addrBytes mode v) = sentAddr mode v := by
  cases mode with
  | none => rfl
  | reserved => rfl
  | short => exact leValue_bytesLE_two v
  | extended => exact leValue_bytesLE 8 v (by decide)

/-! The fields of a received frame, each read back from the bytes PACK emits for it (42_serializer.md R155, R158). -/

section
variable {m : Memory} {a : Nat}

theorem read_of_holdsAt_seq {suppressed : Bool} {v : Byte} (h : m.holdsAt a (if suppressed then [] else [v])) :
    (if suppressed then 0 else m.read a) = if suppressed then 0 else v := by
  cases suppressed with
  | true => rfl
  | false => exact List.singleton_inj.1 h

theorem leValue_of_holdsAt_half {v : Half} (h : m.holdsAt a (bytesLE 2 v)) : leValue 16 (m.readBytes a 2) = v :=
  (congrArg (leValue 16) h).trans (leValue_bytesLE 2 v (by decide))

theorem leValue_of_holdsAt_panId {present : Bool} {v : Half} (h : m.holdsAt a (if present then bytesLE 2 v else [])) :
    (if present then leValue 16 (m.readBytes a 2) else 0) = if present then v else 0 := by
  cases present with
  | true => exact leValue_of_holdsAt_half h
  | false => rfl

theorem leValue_of_holdsAt_addr {mode : AddrMode} (hm : mode ≠ .reserved) {v : Addr} (h : m.holdsAt a (addrBytes mode v)) :
    leValue 64 (m.readBytes a (alen mode)) = sentAddr mode v := by
  rw [← addrBytes_length hm v, h, leValue_addrBytes]

end

end Sys2Proof.Machine
end

section
/-! SUPPORT. Decoding what PACK encoded (44_facades.md R215): the fields of a packed frame as UNPACK reads them. -/

namespace Sys2Proof.Machine

theorem wireFc_of_holdsAt {m : Memory} {fc : FrameControl} (h : m.holdsAt 0 (bytesLE 2 (fcEncode fc))) :
    wireFc m = fc :=
  calc wireFc m = fcDecode (leValue 16 (m.readBytes 0 2)) := rfl
    _ = fc := by rw [leValue_of_holdsAt_half h, fcDecode_fcEncode]

/-- The frame description that comes back from a packed frame before the post-step: what is not on the wire is 0. -/
def sentFd (alg : CrcAlgorithm) (fd : FrameDesc) (p : Presence) : FrameDesc where
  fc := fd.fc
  seq := if fd.fc.seqNumSuppressed then 0 else fd.seq
  dpan := if p.dpan then fd.dpan else 0
  daddr := sentAddr fd.fc.dstAddrMode fd.daddr
  span := if p.span then fd.span else 0
  saddr := sentAddr fd.fc.srcAddrMode fd.saddr
  plen := fd.plen
  payload := Memory.writeBytes [] 0 (fd.payload.readBytes 0 fd.plen.toNat)
  fcs := crc16 alg (bodyBytes fd p)

section
variable {fd : FrameDesc} {p : Presence} {alg : CrcAlgorithm} {m : Memory} (hd : fd.fc.dstAddrMode ≠ .reserved)
  (hs : fd.fc.srcAddrMode ≠ .reserved) (h : m.holdsAt 0 (frameBytes alg fd p))
include hd hs h

/-- The body of a packed frame, and the FCS after it. -/
theorem holdsAt_body_fcs :
    m.holdsAt 0 (bodyBytes fd p) ∧
      m.holdsAt (hdrLen fd.fc p + fd.plen.toNat) (bytesLE 2 (crc16 alg (bodyBytes fd p))) := by
  rw [frameBytes, Memory.holdsAt_append, bodyBytes_length fd p hd hs, Nat.zero_add] at h
  exact h

/-- The fields of a packed frame lie where the layout puts them. -/
theorem holdsAt_fields :
    m.holdsAt 0 (bytesLE 2 (fcEncode fd.fc)) ∧
    m.holdsAt 2 (if fd.fc.seqNumSuppressed then [] else [fd.seq]) ∧
    m.holdsAt (dpanAt fd.fc) (if p.dpan then bytesLE 2 fd.dpan else []) ∧
    m.holdsAt (daddrAt fd.fc p) (addrBytes fd.fc.dstAddrMode fd.daddr) ∧
    m.holdsAt (spanAt fd.fc p) (if p.span then bytesLE 2 fd.span else []) ∧
    m.holdsAt (saddrAt fd.fc p) (addrBytes fd.fc.srcAddrMode fd.saddr) ∧
    m.holdsAt (hdrLen fd.fc p) (fd.payload.readBytes 0 fd.plen.toNat) := by
  have hseq : (if fd.fc.seqNumSuppressed then [] else [fd.seq]).length = seqLen fd.fc.seqNumSuppressed := by
    cases fd.fc.seqNumSuppressed <;> rfl
  have hpan (present : Bool) (v : Half) : (if present then bytesLE 2 v else []).length = panIdLen present := by
    cases present <;> rfl
  have hbody := (holdsAt_body_fcs hd hs h).1
  simp only [bodyBytes, headerBytes, Memory.holdsAt_append, List.length_append, hseq, hpan, addrBytes_length hd,
    addrBytes_length hs, bytesLE_length, Nat.zero_add] at hbody
  obtain ⟨⟨⟨⟨⟨⟨hfc, hseq⟩, hdpan⟩, hdaddr⟩, hspan⟩, hsaddr⟩, hpay⟩ := hbody
  exact ⟨hfc, hseq, hdpan, hdaddr, hspan, hsaddr, hpay⟩

/-- The layout read back from the layout written (30_encoding.md R88, R93). -/
theorem receivedFd_of_holdsAt :
    receivedFd m (hdrLen fd.fc p + fd.plen.toNat + 2) fd.fc p = sentFd alg fd p := by
  obtain ⟨-, hseq, hdpan, hdaddr, hspan, hsaddr, hpay⟩ := holdsAt_fields hd hs h
  have hfcs := (holdsAt_body_fcs hd hs h).2
  have hplen : hdrLen fd.fc p + fd.plen.toNat + 2 - hdrLen fd.fc p - 2 = fd.plen.toNat := by omega
  rw [Memory.holdsAt, Memory.readBytes_length] at hpay
  rw [receivedFd, sentFd, read_of_holdsAt_seq hseq, leValue_of_holdsAt_panId hdpan, leValue_of_holdsAt_addr hd hdaddr,
    leValue_of_holdsAt_panId hspan, leValue_of_holdsAt_addr hs hsaddr, hplen, hpay, Nat.add_sub_cancel,
    leValue_of_holdsAt_half hfcs, BitVec.ofNat_toNat, BitVec.setWidth_eq]

end

/-- A packed frame in OUT_BUF, and its length in OUT_LEN. -/
theorem pack_holdsAt {s t : State} (h : exec .pack s = .next t) (h0 : t.result = 0x00) :
    t.outBuf.holdsAt 0 (frameBytes standardCrc s.fd (fcPresence s.fd.fc)) ∧
      t.outLen.toNat = (frameBytes standardCrc s.fd (fcPresence s.fd.fc)).length := by
  have hout := pack_outLen h h0
  obtain ⟨-, -, ⟨-, -, hd, hs, -, -⟩, hmax, -, rfl⟩ := pack_success h h0
  have hlen := frameBytes_length (p := fcPresence s.fd.fc) hd hs standardCrc
  exact ⟨Memory.readBytes_writeBytes_nil (by rw [hlen]; exact Nat.le_succ_of_le hmax), hout.trans hlen.symm⟩

/-- A PAN ID that is inferred is absent, and the one it is copied from is present. -/
theorem inferred_panId_eq {present inferred other : Bool} (h : inferred = true → present = false ∧ other = true)
    (v w : Half) :
    (if inferred then (if other then w else 0) else if present then v else 0) =
      if present then v else if inferred then w else 0 := by
  cases inferred with
  | false => rfl
  | true =>
    obtain ⟨rfl, rfl⟩ := h rfl
    rfl

/-- The source PAN ID that a missing destination one is inferred from is on the wire (42_serializer.md R160, R161). -/
theorem fcPresence_of_infersDpan {fc : FrameControl} (hfc : acceptedFc fc) (hnone : bothNone fc = false)
    (h : infersDpan fc = true) : fcPresence fc = ⟨false, true⟩ := by
  obtain ⟨hv, ht, hd⟩ := infersDpan_iff.1 h
  have hs : fc.srcAddrMode ≠ .none := fun hs => by
    simp [bothNone, isV01, isDataOrCommand, hv, ht, hd, hs] at hnone
  simp [fcPresence_eq_resolveV01 hfc hv, resolveV01_eq, hd, hs]

/-- The destination PAN ID that a missing source one is inferred from is on the wire (42_serializer.md R160 to R162). -/
theorem fcPresence_of_infersSpan {fc : FrameControl} (hfc : acceptedFc fc) (hnone : bothNone fc = false)
    (h : infersSpan fc = true) : fcPresence fc = ⟨true, false⟩ := by
  obtain ⟨hv, ⟨ht, hs⟩ | ⟨hd, -, hpanc⟩⟩ := infersSpan_iff.1 h
  · have hd : fc.dstAddrMode ≠ .none := fun hd => by
      simp [bothNone, isV01, isDataOrCommand, hv, ht, hd, hs] at hnone
    simp [fcPresence_eq_resolveV01 hfc hv, resolveV01_eq, hd, hs]
  · simp [fcPresence_eq_resolveV01 hfc hv, resolveV01_eq, hd, hpanc]

section
variable {fd : FrameDesc} {u : State} (hfc : acceptedFc fd.fc)
  (h : u.inBuf.holdsAt 0 (frameBytes standardCrc fd (fcPresence fd.fc)))
  (hlen : u.inLen.toNat = hdrLen fd.fc (fcPresence fd.fc) + fd.plen.toNat + 2)
include hfc h

theorem wireFc_of_packed : wireFc u.inBuf = fd.fc := by
  obtain ⟨-, -, hd, hs, -, -⟩ := hfc
  exact wireFc_of_holdsAt (holdsAt_fields hd hs h).1

include hlen

theorem wireFd_of_packed : u.wireFd = sentFd standardCrc fd (fcPresence fd.fc) := by
  have ⟨_, _, hd, hs, _, _⟩ := hfc
  rw [State.wireFd, wireFc_of_packed hfc h, hlen]
  exact receivedFd_of_holdsAt hd hs h

/-- A packed frame passes every test of UNPACK. -/
theorem unpackOutcome_of_packed (hiv : u.inValid = true) (hfv : u.fdValid = true) (hnone : bothNone fd.fc = false)
    (hmax : u.inLen.toNat ≤ 128) : unpackOutcome u = .success := by
  have hw := wireFc_of_packed hfc h
  have ⟨_, _, hd, hs, _, _⟩ := hfc
  obtain ⟨hbody, hfcs⟩ := holdsAt_body_fcs hd hs h
  rw [Memory.holdsAt, bodyBytes_length fd _ hd hs] at hbody
  refine unpackOutcome_of_accepted hiv hfv hmax (hw ▸ hfc) (by rw [hw]; omega) (hw ▸ hnone) ?_
  rw [hlen, Nat.add_sub_cancel, hbody, leValue_of_holdsAt_half hfcs]

/-- UNPACK of a packed frame succeeds, with the fields sent and the post-step's inferences (44_facades.md R215). -/
theorem unpack_of_packed (hiv : u.inValid = true) (hfv : u.fdValid = true) (hnone : bothNone fd.fc = false)
    (hmax : u.inLen.toNat ≤ 128) :
    ∃ v, exec .unpack u = .next v ∧ v.result = 0x00 ∧
      v.status = statusOf (fcPresence fd.fc) (infersDpan fd.fc) (infersSpan fd.fc) ∧
      v.fd = { sentFd standardCrc fd (fcPresence fd.fc) with
        dpan := if infersDpan fd.fc then (sentFd standardCrc fd (fcPresence fd.fc)).span
          else (sentFd standardCrc fd (fcPresence fd.fc)).dpan
        span := if infersSpan fd.fc then (sentFd standardCrc fd (fcPresence fd.fc)).dpan
          else (sentFd standardCrc fd (fcPresence fd.fc)).span } := by
  obtain ⟨v, hv⟩ := exec_next .unpack u
  have hv0 : v.result = 0x00 :=
    (unpack_result hv).trans (congrArg _ (unpackOutcome_of_packed hfc h hlen hiv hfv hnone hmax))
  have hstatus := unpack_status hv hv0
  have hfd := unpack_fd hv hv0
  rw [wireFd_of_packed hfc h hlen] at hfd
  rw [wireFc_of_packed hfc h] at hstatus hfd
  exact ⟨v, hv, hv0, hstatus, hfd⟩

end

end Sys2Proof.Machine
end

section
/-! The statements of 44_facades.md, settled. -/

namespace Sys2Proof.Machine

/-- Settles O45: what PACK left in OUT_BUF is the frame of the layout, the frame passes every test of UNPACK, and each
field is read back from the bytes emitted for it. -/
theorem packThenUnpackRoundTrip : Obligations.PackThenUnpackRoundTrip := by
  unfold Obligations.PackThenUnpackRoundTrip
  intro s t u h h0 hlen hbuf hiv hfv
  obtain ⟨-, -, hfc, hmax, hnone, -⟩ := pack_success h h0
  obtain ⟨hframe, hout⟩ := pack_holdsAt h h0
  have hu : u.inBuf.holdsAt 0 (frameBytes standardCrc s.fd (fcPresence s.fd.fc)) :=
    Memory.holdsAt_of_agree hframe (hout ▸ hbuf)
  have ⟨_, _, hd, hs, _, _⟩ := hfc
  have hbody := (holdsAt_body_fcs hd hs hframe).1
  rw [Memory.holdsAt, bodyBytes_length s.fd _ hd hs] at hbody
  rw [frameBytes_length hd hs] at hout
  have hn := (congrArg BitVec.toNat hlen).trans hout
  obtain ⟨v, hv, hv0, hstatus, hfd⟩ := unpack_of_packed hfc hu hn hiv hfv hnone (by omega)
  obtain ⟨hdp, hsp, hdi, hsi⟩ := flags_of_status hstatus
  obtain ⟨hdp', hsp', -, -⟩ := flags_of_status (pack_resolve_status (.inl rfl) h h0)
  refine ⟨v, hv, hv0, ?_⟩
  rw [hdp, hsp, hdi, hsi, hdp', hsp', hout, Nat.add_sub_cancel, hbody, hfd]
  refine ⟨rfl, rfl, fun a ha => ?_, rfl, rfl, rfl, inferred_panId_eq (fun hi => ?_) _ _,
    inferred_panId_eq (fun hi => ?_) _ _, rfl, rfl, rfl⟩
  · have hfits : (s.fd.payload.readBytes 0 s.fd.plen.toNat).length ≤ bufferSize := by
      rw [Memory.readBytes_length]; show _ ≤ 128; omega
    exact (Memory.read_writeBytes_nil hfits a).trans (by rw [Memory.getD_readBytes, if_pos ha, Nat.zero_add])
  · rw [fcPresence_of_infersDpan hfc hnone hi]; exact ⟨rfl, rfl⟩
  · rw [fcPresence_of_infersSpan hfc hnone hi]; exact ⟨rfl, rfl⟩

/-- Settles O35: the frame's outcome is SUCCESS, and the post-step infers each PAN ID by its own condition. -/
theorem unpackSucceeds : Obligations.UnpackSucceeds := by
  unfold Obligations.UnpackSucceeds
  intro s hiv hfv _ hmax hfc hlen hnone hcrc
  rw [exec_unpack_of_success (unpackOutcome_of_accepted hiv hfv hmax hfc hlen hnone hcrc), inferPanIds_eq hnone,
    commitUnpack, statusOf_eq_append]
  rfl

/-- Settles O42: the description's outcome is SUCCESS, and OUT_BUF is a fresh buffer with the frame written. -/
theorem packSucceeds : Obligations.PackSucceeds := by
  unfold Obligations.PackSucceeds
  intro s hfv hov hfc hnone hmax p frame
  have ⟨_, _, hd, hs, _, _⟩ := hfc
  have hlen : frame.length = hdrLen s.fd.fc p + s.fd.plen.toNat + 2 := frameBytes_length hd hs standardCrc
  refine ⟨hlen, Memory.writeBytes [] 0 frame, ?_, Memory.read_writeBytes_nil (hlen ▸ Nat.le_succ_of_le hmax)⟩
  rw [exec_pack_of_success (packOutcome_of_accepted hfv hov hfc hnone hmax), commitPack, statusOf_present_only, hlen]
  rfl

/-- Settles O46: however a command ends, it has set its own registers only. -/
theorem commandFrames : Obligations.CommandFrames := by
  unfold Obligations.CommandFrames
  refine ⟨fun s t h => ?_, fun s t h => ?_, fun s t h => ?_, fun s t h => ?_, fun s t h => ?_⟩
  · rcases unpack_cases h with ⟨-, rfl⟩ | ⟨e, -, -, rfl⟩ | ⟨u, -, rfl⟩ <;> exact ⟨rfl, fun _ => ⟨rfl, rfl⟩⟩
  · rcases pack_cases h with ⟨-, rfl⟩ | ⟨e, -, -, rfl⟩ | ⟨r, -, rfl⟩ <;> exact ⟨rfl, fun _ => ⟨rfl, rfl⟩⟩
  · rcases resolve_cases h with ⟨e, -, rfl⟩ | ⟨p, -, rfl⟩ <;> exact ⟨rfl, fun _ => ⟨rfl, rfl, rfl⟩⟩
  · rcases crc16_cases h with ⟨-, rfl⟩ | ⟨-, rfl⟩ <;> exact ⟨rfl, fun _ => ⟨rfl, rfl, rfl⟩⟩
  · cases h; rfl

/-- Settles O8: the decoder rejects the code, and the step that takes it off the queue runs the UNKNOWN rule. -/
theorem reservedCodeRunsUnknown : Obligations.ReservedCodeRunsUnknown := by
  unfold Obligations.ReservedCodeRunsUnknown
  refine fun c hc => ⟨decode_reserved hc, fun s es hh => ?_⟩
  rw [step_cmd_write hh, issueCommand_reserved hc]
  rfl

/-- Settles O9: NOP's arm answers the state it was given. -/
theorem nopChangesNothing : Obligations.NopChangesNothing := by
  unfold Obligations.NopChangesNothing
  exact fun s => rfl

end Sys2Proof.Machine
end

section
/-! SUPPORT. The codes of UNPACK and PACK by number (30_encoding.md R87), in the order of 60_exceptions.md R242. -/

namespace Sys2Proof.Machine

/-- The both-none case, each of its four tests as an equation (42_serializer.md R161). -/
theorem bothNone_iff {fc : FrameControl} :
    bothNone fc = true ↔ (fc.frameVersion = .v00 ∨ fc.frameVersion = .v01) ∧
      (fc.frameType = .data ∨ fc.frameType = .command) ∧ fc.dstAddrMode = .none ∧ fc.srcAddrMode = .none := by
  simp only [bothNone, isV01, isDataOrCommand, Bool.and_eq_true, decide_eq_true_eq, and_assoc]

/-- The number of the first frame-control cause, or of the code of the tests after them. -/
theorem code_getD_fcOutcome (fc : FrameControl) (e : ResultCode) :
    ((fcOutcome fc).getD e).code =
      if fc.frameVersion = .v11 then 0x05
      else if 4 ≤ fc.frameType.bits.toNat then 0x06
      else if fc.dstAddrMode = .reserved ∨ fc.srcAddrMode = .reserved then 0x04
      else if fc.securityEnabled = true ∨ fc.iePresent = true then 0x03
      else e.code := by
  simp only [getD_fcOutcome, rejectedType_iff, apply_ite ResultCode.code]
  rfl

end Sys2Proof.Machine
end

section
/-! SUPPORT. What the parts of the invariant rest on: which commands write the output and the FD, and what they leave
there. -/

namespace Sys2Proof.Machine

/-- The output stays, or is emptied, or is the frame of a successful PACK. -/
theorem exec_output_cases {i : Instr} {s t : State} (h : exec i s = .next t) :
    (t.outLen = s.outLen ∧ t.outBuf = s.outBuf) ∨ (t.outLen = 0 ∧ t.outBuf = []) ∨
      exec .pack s = .next t ∧ t.result = 0x00 := by
  cases i with
  | nop => cases h; exact .inl ⟨rfl, rfl⟩
  | unpack => rcases unpack_cases h with ⟨-, rfl⟩ | ⟨e, -, -, rfl⟩ | ⟨u, -, rfl⟩ <;> exact .inl ⟨rfl, rfl⟩
  | pack =>
    rcases pack_cases h with ⟨-, rfl⟩ | ⟨e, -, -, rfl⟩ | ⟨r, -, rfl⟩
    · exact .inl ⟨rfl, rfl⟩
    · exact .inr (.inl ⟨rfl, rfl⟩)
    · exact .inr (.inr ⟨h, rfl⟩)
  | resolve => rcases resolve_cases h with ⟨e, -, rfl⟩ | ⟨p, -, rfl⟩ <;> exact .inl ⟨rfl, rfl⟩
  | crc16 => rcases crc16_cases h with ⟨-, rfl⟩ | ⟨-, rfl⟩ <;> exact .inl ⟨rfl, rfl⟩

/-- The FD stays, or is zeroed, or is that of a successful UNPACK. -/
theorem exec_fd_cases {i : Instr} {s t : State} (h : exec i s = .next t) :
    t.fd = s.fd ∨ t.fd = FrameDesc.zero ∨ exec .unpack s = .next t ∧ t.result = 0x00 := by
  cases i with
  | nop => cases h; exact .inl rfl
  | unpack =>
    rcases unpack_cases h with ⟨-, rfl⟩ | ⟨e, -, -, rfl⟩ | ⟨u, -, rfl⟩
    · exact .inl rfl
    · exact .inr (.inl rfl)
    · exact .inr (.inr ⟨h, rfl⟩)
  | pack => rcases pack_cases h with ⟨-, rfl⟩ | ⟨e, -, -, rfl⟩ | ⟨r, -, rfl⟩ <;> exact .inl rfl
  | resolve => rcases resolve_cases h with ⟨e, -, rfl⟩ | ⟨p, -, rfl⟩ <;> exact .inl rfl
  | crc16 => rcases crc16_cases h with ⟨-, rfl⟩ | ⟨-, rfl⟩ <;> exact .inl rfl

/-- What MemWrite puts into a fresh frame space that holds it is in canonical form. -/
theorem Memory.wf_writeBytes_nil {bs : List Byte} (h : bs.length ≤ bufferSize) :
    Memory.wf (Memory.writeBytes [] 0 bs) :=
  Memory.wf_writeBytes Memory.wf_nil (by omega)

theorem unpack_payload_wf {s t : State} (h : exec .unpack s = .next t) (h0 : t.result = 0x00) :
    Memory.wf t.fd.payload := by
  obtain ⟨-, -, hn, -⟩ := unpack_success h h0
  rw [unpack_fd h h0]
  refine Memory.wf_writeBytes_nil ?_
  rw [Memory.readBytes_length, bufferSize]
  omega

/-- The output of a successful PACK: a frame of at most 127 bytes, in a fresh buffer. -/
theorem pack_output {s t : State} (h : exec .pack s = .next t) (h0 : t.result = 0x00) :
    t.outBuf = Memory.writeBytes [] 0 (frameBytes standardCrc s.fd (fcPresence s.fd.fc)) ∧
      (frameBytes standardCrc s.fd (fcPresence s.fd.fc)).length ≤ bufferSize := by
  obtain ⟨-, -, ⟨-, -, hd, hs, -, -⟩, hmax, -, rfl⟩ := pack_success h h0
  refine ⟨rfl, ?_⟩
  rw [frameBytes_length hd hs]
  exact Nat.le_succ_of_le hmax

/-- A whole frame, FCS included, has CRC 0 (43_fcs.md R186). -/
theorem crc16_frameBytes (fd : FrameDesc) (p : Presence) : crc16 standardCrc (frameBytes standardCrc fd p) = 0 :=
  crcResidueIsZero (bodyBytes fd p)

theorem pack_outputWhole {s t : State} (h : exec .pack s = .next t) (h0 : t.result = 0x00) : t.outputWhole := by
  obtain ⟨hframe, hlen⟩ := pack_holdsAt h h0
  obtain ⟨hbuf, hfits⟩ := pack_output h h0
  obtain ⟨-, hbounds, -⟩ := outLenBounds
  obtain ⟨hmin, hmax, -⟩ := hbounds s t h h0
  refine .inr ⟨hmin, hmax, fun a ha => ?_, ?_⟩
  · rw [hbuf, Memory.read_writeBytes_nil hfits, List.getD_eq_default _ _ (hlen ▸ ha)]
  · rw [hlen, hframe, crc16_frameBytes]

end Sys2Proof.Machine
end

section
/-! SUPPORT. Every command keeps each part of the invariant (Safety.lean). -/

namespace Sys2Proof.Machine

/-- STATUS as a command writes it is consistent when an inferred PAN ID is absent and the other one present
(42_serializer.md R164). -/
theorem statusConsistent_of_statusOf {t : State} {p : Presence} {dinf sinf : Bool} (h : t.status = statusOf p dinf sinf)
    (hdpan : dinf = true → p = ⟨false, true⟩) (hspan : sinf = true → p = ⟨true, false⟩) : t.statusConsistent := by
  obtain ⟨hdp, hsp, hdi, hsi⟩ := flags_of_status h
  rw [State.statusConsistent, hdp, hsp, hdi, hsi]
  refine ⟨fun hi => ?_, fun hi => ?_⟩
  · rw [hdpan hi]; exact ⟨rfl, rfl⟩
  · rw [hspan hi]; exact ⟨rfl, rfl⟩

/-- With no PAN ID inferred there is nothing to hold. -/
theorem statusConsistent_of_zero {t : State} (h : t.status = 0) : t.statusConsistent :=
  statusConsistent_of_statusOf (p := ⟨false, false⟩) (dinf := false) (sinf := false) h nofun nofun

theorem statusConsistent_of_status_eq {s t : State} (h : t.status = s.status) (hs : s.statusConsistent) :
    t.statusConsistent := by
  unfold State.statusConsistent State.dpanPresent State.spanPresent State.dpanInferred State.spanInferred at hs ⊢
  rwa [h]

theorem outputWhole_of_output_eq {s t : State} (hlen : t.outLen = s.outLen) (hbuf : t.outBuf = s.outBuf)
    (hs : s.outputWhole) : t.outputWhole := by
  unfold State.outputWhole at hs ⊢
  rwa [hlen, hbuf]

theorem exec_memWf {i : Instr} {s t : State} (hs : s.memWf) (h : exec i s = .next t) : t.memWf := by
  obtain ⟨hin, hout, hpay⟩ := hs
  obtain ⟨-, -, -, hbuf, -, -⟩ := exec_frame h
  refine ⟨hbuf ▸ hin, ?_, ?_⟩
  · rcases exec_output_cases h with ⟨-, hsame⟩ | ⟨-, hempty⟩ | ⟨hp, h0⟩
    · exact hsame ▸ hout
    · exact hempty ▸ Memory.wf_nil
    · obtain ⟨hframe, hfits⟩ := pack_output hp h0
      exact hframe ▸ Memory.wf_writeBytes_nil hfits
  · rcases exec_fd_cases h with hsame | hzero | ⟨hu, h0⟩
    · exact hsame ▸ hpay
    · exact hzero ▸ Memory.wf_nil
    · exact unpack_payload_wf hu h0

theorem exec_resultListed {i : Instr} {s t : State} (hs : s.resultListed) (h : exec i s = .next t) :
    t.resultListed := by
  by_cases hi : i = .nop
  · subst hi
    cases h; exact hs
  · exact .inl (Nat.le_succ_of_le (exec_result_le_seven hi h))

/-- A command that fails leaves STATUS or zeroes it. -/
theorem failure_statusConsistent {i : Instr} {s t : State} (hi : i = .unpack ∨ i = .pack ∨ i = .resolve)
    (hs : s.statusConsistent) (h : exec i s = .next t) (h0 : t.result ≠ 0x00) : t.statusConsistent := by
  have hstatus := failure_status hi h h0
  split at hstatus
  · exact statusConsistent_of_status_eq hstatus hs
  · exact statusConsistent_of_zero hstatus

/-- What UNPACK inferred is absent from the wire, and copied from what is there. -/
theorem unpack_statusConsistent {s t : State} (h : exec .unpack s = .next t) (h0 : t.result = 0x00) :
    t.statusConsistent := by
  obtain ⟨-, -, -, hfc, -, hnone, -⟩ := unpack_success h h0
  exact statusConsistent_of_statusOf (unpack_status h h0) (fcPresence_of_infersDpan hfc hnone)
    (fcPresence_of_infersSpan hfc hnone)

/-- PACK and RESOLVE infer nothing. -/
theorem pack_resolve_statusConsistent {i : Instr} {s t : State} (hi : i = .pack ∨ i = .resolve)
    (h : exec i s = .next t) (h0 : t.result = 0x00) : t.statusConsistent :=
  statusConsistent_of_statusOf (pack_resolve_status hi h h0) nofun nofun

theorem exec_statusConsistent {i : Instr} {s t : State} (hs : s.statusConsistent) (h : exec i s = .next t) :
    t.statusConsistent := by
  cases i with
  | nop => exact statusConsistent_of_status_eq (crc16_nop_status (.inr rfl) h) hs
  | crc16 => exact statusConsistent_of_status_eq (crc16_nop_status (.inl rfl) h) hs
  | unpack =>
    by_cases h0 : t.result = 0x00
    · exact unpack_statusConsistent h h0
    · exact failure_statusConsistent (.inl rfl) hs h h0
  | pack =>
    by_cases h0 : t.result = 0x00
    · exact pack_resolve_statusConsistent (.inl rfl) h h0
    · exact failure_statusConsistent (.inr (.inl rfl)) hs h h0
  | resolve =>
    by_cases h0 : t.result = 0x00
    · exact pack_resolve_statusConsistent (.inr rfl) h h0
    · exact failure_statusConsistent (.inr (.inr rfl)) hs h h0

theorem exec_outputWhole {i : Instr} {s t : State} (hs : s.outputWhole) (h : exec i s = .next t) : t.outputWhole := by
  rcases exec_output_cases h with ⟨hlen, hbuf⟩ | hempty | ⟨hp, h0⟩
  · exact outputWhole_of_output_eq hlen hbuf hs
  · exact .inl hempty
  · exact pack_outputWhole hp h0

theorem exec_inv {i : Instr} {s t : State} (hs : s.Inv) (h : exec i s = .next t) : t.Inv := by
  obtain ⟨hmem, hresult, hstatus, hout⟩ := hs
  exact ⟨exec_memWf hmem h, exec_resultListed hresult h, exec_statusConsistent hstatus h, exec_outputWhole hout h⟩

end Sys2Proof.Machine
end

section
/-! SUPPORT. Every other host event keeps the invariant. -/

namespace Sys2Proof.Machine

/-- No host write of a register reaches OUT_LEN or OUT_BUF (10_state.md R32, R43). -/
theorem writeReg_output (r : Reg) (i : Nat) (v : Byte) (s : State) :
    (writeReg r i v s).outLen = s.outLen ∧ (writeReg r i v s).outBuf = s.outBuf := by
  cases r <;> exact ⟨rfl, rfl⟩

theorem writeReg_inv {off : Nat} {r : Reg} {i : Nat} (hl : locate off = some (r, i)) (v : Byte) {s : State}
    (hs : s.Inv) : (writeReg r i v s).Inv := by
  obtain ⟨hmem, hresult, hstatus, hout⟩ := hs
  obtain ⟨hlen, hbuf⟩ := writeReg_output r i v s
  refine ⟨writeReg_memWf hl v hmem, ?_, statusConsistent_of_status_eq (writeReg_status r i v s) hstatus,
    outputWhole_of_output_eq hlen hbuf hout⟩
  rw [State.resultListed, writeReg_result]
  exact hresult

theorem unknownCommand_inv {s : State} (hs : s.Inv) : (unknownCommand s).Inv := by
  obtain ⟨hmem, -, hstatus, hout⟩ := hs
  exact ⟨hmem, .inl (Nat.le_refl 8), hstatus, hout⟩

/-- A reset empties the buffers, zeroes STATUS and sets RESULT to NO_RESULT (70_reset_and_hazards.md R270). -/
theorem resetEvent_inv (s : State) : (resetEvent s).Inv :=
  ⟨⟨Memory.wf_nil, Memory.wf_nil, Memory.wf_nil⟩, .inr rfl, statusConsistent_of_zero rfl, .inl ⟨rfl, rfl⟩⟩

/-! The queue, CMD and the byte read last are in no part of the invariant. -/
theorem inv_setHost {s : State} (es : List HostEvent) (hs : s.Inv) : (s.setHost es).Inv := hs

theorem inv_setCmd {s : State} (c : Byte) (hs : s.Inv) : (s.setCmd c).Inv := hs

theorem inv_setReadData {s : State} (b : Byte) (hs : s.Inv) : (s.setReadData b).Inv := hs

theorem runEvent_inv {e : HostEvent} {s t : State} (hs : s.Inv) (h : runEvent e s = .next t) : t.Inv := by
  rcases runEvent_cases h with rfl | ⟨b, rfl⟩ | ⟨off, r, i, v, -, hl, rfl⟩ | ⟨c, i, hi⟩ | ⟨c, rfl⟩
  · exact resetEvent_inv s
  · exact inv_setReadData b hs
  · exact writeReg_inv hl v hs
  · exact exec_inv (inv_setCmd c hs) hi
  · exact unknownCommand_inv (inv_setCmd c hs)

end Sys2Proof.Machine
end

section
/-! The statements of 60_exceptions.md, settled. -/

namespace Sys2Proof.Machine

/-- Settles O49: with no event the state stays; else the oldest event leaves the queue, and each of its five ends keeps
every part of the invariant. -/
theorem stepKeepsInvariant : Obligations.StepKeepsInvariant := by
  unfold Obligations.StepKeepsInvariant
  intro s t hs h
  rcases step_cases h with ⟨-, rfl⟩ | ⟨e, es, -, he⟩
  · exact hs
  · exact runEvent_inv (inv_setHost es hs) he

/-- Settles O32: the ends of each command, told apart by the code in RESULT. -/
theorem failureEffects : Obligations.FailureEffects := by
  unfold Obligations.FailureEffects
  refine ⟨fun s t h h1 => ?_, fun s t h h0 h1 => ?_, fun s t h h1 => ?_, fun s t h h0 h1 => ?_, fun s t h h0 => ?_,
    fun s t h h0 => ?_⟩
  · rcases unpack_cases h with ⟨-, rfl⟩ | ⟨e, he, -, rfl⟩ | ⟨u, -, rfl⟩
    · rfl
    · exact absurd (code_eq_one h1) he
    · cases code_eq_one (e := .success) h1
  · rcases unpack_cases h with ⟨-, rfl⟩ | ⟨e, -, -, rfl⟩ | ⟨u, -, rfl⟩
    · exact absurd rfl h1
    · rfl
    · exact absurd rfl h0
  · rcases pack_cases h with ⟨-, rfl⟩ | ⟨e, he, -, rfl⟩ | ⟨r, -, rfl⟩
    · rfl
    · exact absurd (code_eq_one h1) he
    · cases code_eq_one (e := .success) h1
  · rcases pack_cases h with ⟨-, rfl⟩ | ⟨e, -, -, rfl⟩ | ⟨r, -, rfl⟩
    · exact absurd rfl h1
    · rfl
    · exact absurd rfl h0
  · rcases resolve_cases h with ⟨e, -, rfl⟩ | ⟨p, -, rfl⟩
    · rfl
    · exact absurd rfl h0
  · rcases crc16_cases h with ⟨-, rfl⟩ | ⟨-, rfl⟩
    · rfl
    · exact absurd rfl h0

/-- Settles O33: RESULT is the number of UNPACK's outcome, and the outcome is the same chain of tests by name. -/
theorem unpackReportsFirstError : Obligations.UnpackReportsFirstError := by
  unfold Obligations.UnpackReportsFirstError
  intro s
  obtain ⟨t, ht⟩ := exec_next .unpack s
  refine ⟨t, ht, (unpack_result ht).trans ?_⟩
  simp only [unpackOutcome, apply_ite ResultCode.code, code_getD_fcOutcome, bothNone_iff]
  rfl

/-- Settles O34: RESULT is the number of PACK's outcome, and the outcome is the same chain of tests by name. -/
theorem packReportsFirstError : Obligations.PackReportsFirstError := by
  unfold Obligations.PackReportsFirstError
  intro s
  obtain ⟨t, ht⟩ := exec_next .pack s
  refine ⟨t, ht, (pack_result ht).trans ?_⟩
  simp only [packOutcome, apply_ite ResultCode.code, code_getD_fcOutcome, bothNone_iff]
  rfl

end Sys2Proof.Machine
end

section
/-! SUPPORT. Reset (70_reset_and_hazards.md R270, R271): what the window reads after it, that nothing of the host's side
shows there, and that a command answers the host's side as it was. -/

namespace Sys2Proof.Machine

@[simp] theorem byteAt_zero {w : Nat} (i : Nat) : byteAt (0#w) i = 0x00 := by
  apply BitVec.eq_of_getLsbD_eq
  simp [getLsbD_byteAt]

@[simp] theorem fcEncode_zero : fcEncode FrameDesc.zero.fc = 0#16 := by decide

/-- Every byte of every register is 0x00 after reset, RESULT apart (10_state.md section 3). -/
theorem readReg_reset (r : Reg) (i : Nat) : readReg r i State.reset = if r = .result then 0xFF else 0x00 := by
  cases r
  case result => rfl
  case fdFc => exact (congrArg (byteAt · i) fcEncode_zero).trans (byteAt_zero i)
  case fdDpan | fdSpan | fdFcs | fdDaddr | fdSaddr | crcOut => exact byteAt_zero i
  all_goals rfl

theorem eq_result_iff {off : Nat} {r : Reg} {i : Nat} (h : locate off = some (r, i)) : r = .result ↔ off = 1 := by
  constructor
  · rintro rfl
    have h : i < 1 ∧ off = 1 + i := locate_eq_some_iff.1 h
    omega
  · rintro rfl
    cases h
    rfl

theorem window_reset {off : Nat} (h : off < 0x200) :
    State.reset.window off = some (if off = 1 then 0xFF else 0x00) := by
  obtain ⟨r, i, hl⟩ := locate_of_lt h
  rw [window_of_locate hl, readReg_reset]
  simp only [eq_result_iff hl]

theorem window_setHost (s : State) (es : List HostEvent) (off : Nat) : (s.setHost es).window off = s.window off := rfl

theorem window_resetEvent (s : State) (off : Nat) : (resetEvent s).window off = State.reset.window off := by
  rw [resetEvent, window_setReadData, window_setHost]

theorem step_reset {s : State} {es : List HostEvent} (h : s.host = HostEvent.reset :: es) :
    step s = .next (resetEvent (s.setHost es)) :=
  step_cons h

theorem issueCommand_readData {c : Byte} {s t : State} (h : issueCommand c s = .next t) : t.readData = s.readData := by
  rw [issueCommand] at h
  split at h
  · obtain ⟨-, -, -, -, -, hread⟩ := exec_frame h
    exact hread
  · cases h
    rfl

end Sys2Proof.Machine
end

section
/-! SUPPORT. UNPACK and PACK before their buffers are marked valid (60_exceptions.md R240, R241), and PACK of the FD that
reset leaves (70_reset_and_hazards.md R272). -/

namespace Sys2Proof.Machine

theorem exec_unpack_of_not_valid {s : State} (h : s.inValid = false ∨ s.fdValid = false) :
    exec .unpack s = .next (s.setResult .parameterError) := by
  rw [exec_unpack_eq, unpackSteps_standard, if_pos h]
  rfl

theorem exec_pack_of_not_valid {s : State} (h : s.fdValid = false ∨ s.outValid = false) :
    exec .pack s = .next (s.setResult .parameterError) := by
  rw [exec_pack_eq, packSteps_standard, if_pos h]
  rfl

theorem fcPresence_zero : fcPresence FrameDesc.zero.fc = ⟨false, false⟩ := rfl

/-- The CRC starts at 0, where a zero byte leaves it (43_fcs.md R180). -/
theorem crc16_replicate_zero (n : Nat) : crc16 standardCrc (List.replicate n 0x00) = 0 := by
  rw [crc16_standard]
  induction n with
  | zero => rfl
  | succ n ih => exact (congrArg (crcFold · _) (crcByte_self _ 0x00)).trans ih

/-- The frame of the FD after reset: frame control and sequence number, and the FCS of three zero bytes. -/
theorem frameBytes_zero : frameBytes standardCrc FrameDesc.zero ⟨false, false⟩ = List.replicate 5 0x00 := by
  have hbody : bodyBytes FrameDesc.zero ⟨false, false⟩ = List.replicate 3 0x00 := by decide
  rw [frameBytes, hbody, crc16_replicate_zero]
  decide

theorem exec_pack_of_zero_fd {s : State} (hfv : s.fdValid = true) (hov : s.outValid = true) (hfd : s.fd = .zero) :
    exec .pack s = .next (((s.setOut 5 []).setStatus 0).setResult .success) := by
  have hok : packOutcome s = .success :=
    packOutcome_of_accepted hfv hov (by rw [hfd, acceptedFc]; decide) (by rw [hfd]; rfl) (by rw [hfd]; decide)
  rw [exec_pack_of_success hok, hfd, fcPresence_zero, frameBytes_zero]
  rfl

end Sys2Proof.Machine
end

section
/-! The statements of 70_reset_and_hazards.md, settled. -/

namespace Sys2Proof.Machine

/-- Settles O1: a reset gives the state after reset but for the host's side, which no register of the window shows. -/
theorem resetSetsEveryRegister : Obligations.ResetSetsEveryRegister := by
  unfold Obligations.ResetSetsEveryRegister
  refine ⟨fun s es hh => ⟨_, step_reset hh, fun off hoff => ?_, rfl, rfl, rfl, rfl, rfl, rfl⟩, fun off => window_reset⟩
  rw [window_resetEvent, window_reset hoff]

/-- Settles O2: whatever the written code runs, it leaves the reset next in the queue and the byte read last. -/
theorem resetAbandonsCommand : Obligations.ResetAbandonsCommand := by
  unfold Obligations.ResetAbandonsCommand
  intro s c es hh
  obtain ⟨u, hu, -, hhost⟩ := issueCommand_frame c ((s.setHost (.reset :: es)).setCmd c)
  have hread : u.readData = s.readData := (issueCommand_readData hu).trans rfl
  refine ⟨u, (step_cmd_write hh).trans hu, ?_⟩
  rw [step_reset hhost, ← hread]
  rfl

/-- Settles O3: with CTRL 0 neither sequencer starts, the FD is accepted with no PAN ID present, and IN_BUF is empty. -/
theorem commandsStraightAfterReset : Obligations.CommandsStraightAfterReset := by
  unfold Obligations.CommandsStraightAfterReset
  refine ⟨exec_unpack_of_not_valid (.inl rfl), exec_pack_of_not_valid (.inl rfl), ?_, ?_, nopChangesNothing _, ?_⟩
  · exact exec_resolve_of_ok (p := ⟨false, false⟩) rfl
  · exact crc16Command.1 State.reset (Nat.zero_le _)
  · exact ⟨_, _, rfl, exec_pack_of_zero_fd rfl rfl rfl, rfl, rfl, rfl, rfl⟩

/-- Settles O10: a command answers a next state, and the queue is in its frame. -/
theorem everyCommandCompletes : Obligations.EveryCommandCompletes := by
  unfold Obligations.EveryCommandCompletes
  intro i s
  obtain ⟨t, ht⟩ := exec_next i s
  obtain ⟨-, -, -, -, hhost, -⟩ := exec_frame ht
  exact ⟨t, ht, hhost⟩

/-- Settles O48: a reset meets the invariant in every state, and one of the state after reset changes nothing. -/
theorem resetMeetsInvariant : Obligations.ResetMeetsInvariant := by
  unfold Obligations.ResetMeetsInvariant
  exact resetEvent_inv State.reset

end Sys2Proof.Machine
end
